-- ==== Sys2Proof/Word.lean ====
section
/-! DEFINITION. The two widths of the block (00_scope.md R6, R7): bytes of a slot and of a Track field, and 32-bit words
of the Tone Encoder. Every value is unsigned (R7, R8). -/

namespace Sys2Proof

/-- `u8` of R8. -/
abbrev Byte := BitVec 8

/-- `u32` of R8. -/
abbrev Word := BitVec 32

end Sys2Proof
end

