-- ==== Sys2Proof/Config.lean ====
section
/-! DEFINITION. The OPEN parameters of the block (00_scope.md R6): constants with no body, so that nothing can be proved
from a value of theirs. State.reset starts its constant tables from them (notes/assumptions/1.md). -/

namespace Sys2Proof

/-- One entry of `TRACK_INSTRUMENTS`: a `(channel, mode)` pair (10_state.md R20; each a `u32`, D9). -/
structure Voice where
  channel : Word
  mode    : Word
  deriving DecidableEq, Repr, Inhabited

/-- `TRACK_INSTRUMENTS`: `N_INSTR` entries, at least one (R86 (1) excludes a table of length 0, and so does this type). -/
structure VoiceTable where
  first : Voice
  rest  : List Voice
  deriving DecidableEq, Repr, Inhabited

/-- `N_INSTR` (R6). -/
def VoiceTable.size (v : VoiceTable) : Nat := v.rest.length + 1

/-- The byte order in which a platform serialises the outbound words, if it does (R28, D11): outside the block. -/
inductive ByteOrder where
  | littleEndian
  | bigEndian
  deriving DecidableEq, Repr, Inhabited

/-- `TRACK_NOTES[1..36]`, OPEN (R6, D8). DESIGN CHOICE of form only: see notes/assumptions/1.md. -/
opaque Config.trackNotesFrom1 : Vector Word 36

/-- `TRACK_INSTRUMENTS[0]`, OPEN (R6, D9). -/
opaque Config.voiceFirst : Voice

/-- `TRACK_INSTRUMENTS[1 ..]`, OPEN (R6, D9): `N_INSTR` is one more than its length. -/
opaque Config.voiceRest : List Voice

/-- `N_TRACKS - 1`, OPEN (R6, D21): at least one Track instance exists. -/
opaque Config.extraTracks : Nat

/-- `TICK_RATE`, OPEN, read by no rule (R6, R76, D23) and so by no definition of the model. -/
opaque Config.tickRate : Nat

/-- `OUT_BYTE_ORDER`, OPEN, outside the block (R28, D11): read by no definition of the model. -/
opaque Config.outByteOrder : ByteOrder

end Sys2Proof
end

