-- ==== Sys2Proof/Syntax.lean ====
section
/-! DEFINITION. The instructions of the block: the four note-slot opcode classes (30_encoding.md R40) and the four host
commands (R44), with their operand forms. -/

namespace Sys2Proof

/-- A note slot: an ordered triple of bytes (R38). `wait` is the source's `rawWait`; `flags` is reserved (R42). -/
structure Slot where
  note  : Byte
  wait  : Byte
  flags : Byte
  deriving DecidableEq, Repr, Inhabited

/-- The Tone Encoder's input, nine `u32` fields (R45). -/
structure ToneParams where
  freq1   : Word
  freq2   : Word
  attack  : Word
  decay   : Word
  sustain : Word
  release : Word
  volume  : Word
  channel : Word
  mode    : Word
  deriving DecidableEq, Repr

/-- EMIT's operand as the host gives it: each field supplied, or omitted (`none`) and then defaulted
(40_tone_encoder.md R55 with R46). -/
structure ToneOperand where
  freq1   : Option Word
  freq2   : Option Word
  attack  : Option Word
  decay   : Option Word
  sustain : Option Word
  release : Option Word
  volume  : Option Word
  channel : Option Word
  mode    : Option Word
  deriving DecidableEq, Repr

/-- LOAD's first operand: a table of exactly 32 slots, or the default-table selector (42_track_control.md R65, R66). -/
inductive TableOperand where
  | given (tones : Vector Slot 32)
  | defaultTable
  deriving DecidableEq, Repr

/-- The lines of the command port (R44): the 2-bit command code, and the operands of all four commands side by side.
DESIGN CHOICE: the spec gives the code and the operand list, no layout of the operands (notes/assumptions/3.md). -/
structure Packet where
  cmd        : BitVec 2
  track      : Nat
  table      : TableOperand
  ticks      : Byte
  instrument : Byte
  volume     : Byte
  flags      : Byte × Byte
  params     : ToneOperand
  deriving DecidableEq, Repr

/-- The instructions. The slot opcodes act on the Track whose STEP is in progress; the commands name their Track. -/
inductive Instr where
  /-- NOTE, note byte 0 to 36 (41_track_step.md R60). -/
  | note (n : Fin 37) (wait flags : Byte)
  /-- SILENT, note byte 37 to 253 (R61). -/
  | silent (n wait flags : Byte)
  /-- END, note byte 0xFE (R62). -/
  | endMark (wait flags : Byte)
  /-- EMPTY, note byte 0xFF (R63). -/
  | empty (wait flags : Byte)
  /-- STEP of Track `t` (R56). -/
  | step (t : Nat)
  /-- RESET of Track `t` (42_track_control.md R67). -/
  | reset (t : Nat)
  /-- LOAD of Track `t` (R65). -/
  | load (t : Nat) (table : TableOperand) (ticks instrument volume : Byte) (flags : Byte × Byte)
  /-- EMIT (40_tone_encoder.md R55). -/
  | emit (p : ToneOperand)
  deriving DecidableEq, Repr

end Sys2Proof
end

