-- ==== Sys2Proof/Machine/State.lean ====
section
/-! DEFINITION. The state of the block (10_state.md R10, R20; 70_reset_and_hazards.md R84, R85), the host's command stream
(60_exceptions.md R83), the output trace (R81), and the reasons a command can be refused (R74). -/

namespace Sys2Proof.Machine

/-- One Track instance: exactly the fields of R10. -/
structure Track where
  /-- The cursor, the block's program counter (R12). -/
  next       : Fin 32
  /-- Remaining ticks before the next slot is read (R14, R75). -/
  wait       : Byte
  /-- Tempo multiplier of the release field (R16; C3). -/
  ticks      : Byte
  /-- Index into `TRACK_INSTRUMENTS`, stored unreduced (R17). -/
  instrument : Byte
  /-- Forwarded into every tone (R18). -/
  volume     : Byte
  /-- Reserved scratch pair, inert (R15). -/
  flags      : Byte × Byte
  /-- The note table (R19). -/
  tones      : Vector Slot 32
  deriving DecidableEq, Repr

/-- A tone event: the four outbound words (R81; 30_encoding.md R47 to R50). -/
structure Tone where
  frequencyBits   : Word
  envelopeBits    : Word
  volume          : Word
  channelModeBits : Word
  deriving DecidableEq, Repr

/-- The machine. `tracks`, `notesFrom1` and `voices` are the block; `trace` and `commands` stand on the host's side of
its interface; `stepping` says which Track the STEP in progress addresses. -/
structure State where
  /-- The `N_TRACKS` instances (R78); `none` is a Track no LOAD has created (R74, R84). -/
  tracks     : List (Option Track)
  /-- `TRACK_NOTES[1..36]`, read-only (R20). Entry 0 is the constant 130 of R6. -/
  notesFrom1 : Vector Word 36
  /-- `TRACK_INSTRUMENTS`, read-only (R20). -/
  voices     : VoiceTable
  /-- The output trace, oldest event first (R81). -/
  trace      : List Tone
  /-- What the host has still to issue, next command first (R33, R83). DESIGN CHOICE: notes/assumptions/2.md. -/
  commands   : List Packet
  /-- The Track operand of the STEP in progress (R56, R78). DESIGN CHOICE: notes/assumptions/4.md. -/
  stepping   : Nat
  deriving DecidableEq, Repr

/-- The block raises nothing (R69, R72), so there is no fault: no constructor. Safe: R69 states that every operation is
defined for all inputs. -/
inductive Fault
  deriving DecidableEq, Repr

/-- Why a command gets no next state. -/
inductive Refusal where
  /-- Raised by STEP and RESET addressed to a Track that no LOAD has created, and by a slot opcode executed for such a
  Track (R74). Safe: the spec's own refusal. -/
  | unloadedTrack
  /-- Raised by LOAD addressed to a Track number at or above `N_TRACKS`: no such instance exists (R6, R78). Safe: nothing
  is proved of such a LOAD (notes/assumptions/5.md). -/
  | noSuchTrack
  /-- Raised by an arm of `exec` without a meaning: none is left. Safe: the run stops by name. -/
  | notModelled (mnemonic : String)
  deriving DecidableEq, Repr

/-- Power-on (R85): every Track unloaded; the constant tables fixed (R86 (1)) at the open values of Config; no command
issued and no tone emitted yet. -/
def State.reset : State where
  tracks     := none :: List.replicate Config.extraTracks none
  notesFrom1 := Config.trackNotesFrom1
  voices     := ⟨Config.voiceFirst, Config.voiceRest⟩
  trace      := []
  commands   := []
  stepping   := 0

end Sys2Proof.Machine
end

