-- ==== Sys2Proof/Machine/Flags.lean ====
section
/-! DEFINITION. The block has no flags register and no condition codes (10_state.md R14); its only condition is derived
from `wait` at every STEP. -/

namespace Sys2Proof.Machine

/-- WAITING when `wait > 0`, ADVANCING when `wait == 0` (R14). -/
def Track.waiting (T : Track) : Bool := decide (0 < T.wait.toNat)

end Sys2Proof.Machine
end

