-- ==== Sys2Proof/WellFormed.lean ====
section
/-! DEFINITION. Which instructions the encoding can express (30_encoding.md R40). -/

namespace Sys2Proof

/-- SILENT's note byte is 37 to 253 (R40, R51). Every other operand is bounded by its type: NOTE's index by `Fin 37`, and
every byte and every word is legal (R43, R65, R69). -/
def Instr.wellFormed : Instr → Bool
  | .note _ _ _ => true
  | .silent n _ _ => decide (37 ≤ n.toNat) && decide (n.toNat ≤ 253)
  | .endMark _ _ => true
  | .empty _ _ => true
  | .step _ => true
  | .reset _ => true
  | .load _ _ _ _ _ _ => true
  | .emit _ => true

end Sys2Proof
end

