-- ==== Sys2Proof/Decode.lean ====
section
/-! DEFINITION. Decoding and encoding of slots and commands (30_encoding.md R38 to R44), and the rows of the opcode
table (R40's last paragraph). Decoding is total: no encoding is illegal (R43). -/

namespace Sys2Proof

/-! ### Slots -/

/-- `TRACK_OPCODE_END` (00_scope.md R6). -/
def opcodeEnd : Byte := 0xFE

/-- `TRACK_OPCODE_EMPTY` (00_scope.md R6). -/
def opcodeEmpty : Byte := 0xFF

/-- The opcode class of a slot (R40). -/
inductive SlotClass where
  | note (n : Fin 37)
  | silent
  | endMark
  | empty
  deriving DecidableEq, Repr

/-- R40: the class is decided by the note byte alone. -/
def slotClass (note : Byte) : SlotClass :=
  if h : note.toNat < 37 then .note ⟨note.toNat, h⟩
  else if note = opcodeEnd then .endMark
  else if note = opcodeEmpty then .empty
  else .silent

/-- R40, R41: the instruction a slot holds. -/
def decodeSlot (s : Slot) : Instr :=
  match slotClass s.note with
  | .note n => .note n s.wait s.flags
  | .silent => .silent s.note s.wait s.flags
  | .endMark => .endMark s.wait s.flags
  | .empty => .empty s.wait s.flags

/-- R39: the 24-bit slot word `S = (note, wait, flags)`, note in `S[23:16]`. -/
def Slot.toWord (s : Slot) : BitVec 24 := s.note ++ s.wait ++ s.flags

/-- R39, read back. -/
def Slot.ofWord (w : BitVec 24) : Slot :=
  { note := w.extractLsb' 16 8, wait := w.extractLsb' 8 8, flags := w.extractLsb' 0 8 }

/-! ### Commands -/

/-- A ToneParams operand of nine supplied fields. -/
def ToneParams.supplied (p : ToneParams) : ToneOperand :=
  { freq1 := some p.freq1, freq2 := some p.freq2, attack := some p.attack, decay := some p.decay,
    sustain := some p.sustain, release := some p.release, volume := some p.volume,
    channel := some p.channel, mode := some p.mode }

/-- All nine fields zero. -/
def ToneParams.zero : ToneParams := ⟨0, 0, 0, 0, 0, 0, 0, 0, 0⟩

/-- The port with every line zero (the table operand is 32 zero slots). -/
def Packet.zero : Packet :=
  { cmd := 0, track := 0, table := .given (Vector.replicate 32 ⟨0, 0, 0⟩), ticks := 0, instrument := 0, volume := 0,
    flags := (0, 0), params := ToneParams.zero.supplied }

/-- R44: the command a packet carries. Operand lines that the command does not name are not looked at. -/
def decodeCommand (p : Packet) : Instr :=
  match p.cmd.toNat with
  | 0 => .step p.track
  | 1 => .reset p.track
  | 2 => .load p.track p.table p.ticks p.instrument p.volume p.flags
  | _ => .emit p.params

/-! ### Both surfaces -/

/-- An encoded instruction: a slot of a note table, or a packet at the command port. -/
inductive Encoded where
  | slot (s : Slot)
  | command (p : Packet)
  deriving DecidableEq, Repr

/-- Total on both surfaces. -/
def decode : Encoded → Instr
  | .slot s => decodeSlot s
  | .command p => decodeCommand p

/-- The encoder, from R40 and R44. Unused operand lines are zero. -/
def encode : Instr → Encoded
  | .note n w f => .slot ⟨BitVec.ofNat 8 n.val, w, f⟩
  | .silent n w f => .slot ⟨n, w, f⟩
  | .endMark w f => .slot ⟨0xFE, w, f⟩
  | .empty w f => .slot ⟨0xFF, w, f⟩
  | .step t => .command { Packet.zero with cmd := 0b00, track := t }
  | .reset t => .command { Packet.zero with cmd := 0b01, track := t }
  | .load t tb tk i v f =>
    .command { Packet.zero with
      cmd := 0b10, track := t, table := tb, ticks := tk, instrument := i, volume := v, flags := f }
  | .emit p => .command { Packet.zero with cmd := 0b11, params := p }

/-- The instruction read from a row of spec/opcode_table.json: 24 bits are a slot word (R39); 8 (or 2) bits are a command
code in bits 1:0, its operand lines zero, the bits above the code ignored (the table's mask is 0b11). -/
def decodeTableWord (nbits w : Nat) : Option Instr :=
  match nbits with
  | 24 => some (decodeSlot (Slot.ofWord (BitVec.ofNat 24 w)))
  | 8 => some (decodeCommand { Packet.zero with cmd := BitVec.ofNat 2 w })
  | 2 => some (decodeCommand { Packet.zero with cmd := BitVec.ofNat 2 w })
  | _ => none

/-! ### The opcode table -/

/-- A row of spec/opcode_table.json: a word `w` is the row's where `w &&& mask = pattern`. -/
structure OpcodeRow where
  mnemonic : String
  pattern  : Nat
  mask     : Nat
  deriving DecidableEq, Repr

/-- Does the word belong to the row? -/
def OpcodeRow.covers (r : OpcodeRow) (w : Nat) : Bool := w &&& r.mask == r.pattern

/-- The slot-word rows (R40). -/
def slotRows : List OpcodeRow :=
  [⟨"NOTE", 0x000000, 0xE00000⟩, ⟨"NOTE", 0x200000, 0xFC0000⟩, ⟨"NOTE", 0x240000, 0xFF0000⟩] ++
  [⟨"SILENT", 0x250000, 0xFF0000⟩, ⟨"SILENT", 0x260000, 0xFE0000⟩, ⟨"SILENT", 0x280000, 0xF80000⟩,
   ⟨"SILENT", 0x300000, 0xF00000⟩, ⟨"SILENT", 0x400000, 0xC00000⟩, ⟨"SILENT", 0x800000, 0xC00000⟩,
   ⟨"SILENT", 0xC00000, 0xE00000⟩, ⟨"SILENT", 0xE00000, 0xF00000⟩, ⟨"SILENT", 0xF00000, 0xF80000⟩,
   ⟨"SILENT", 0xF80000, 0xFC0000⟩, ⟨"SILENT", 0xFC0000, 0xFE0000⟩] ++
  [⟨"END", 0xFE0000, 0xFF0000⟩, ⟨"EMPTY", 0xFF0000, 0xFF0000⟩]

/-- The host-command rows (R44). -/
def commandRows : List OpcodeRow :=
  [⟨"STEP", 0b00, 0b11⟩, ⟨"RESET", 0b01, 0b11⟩, ⟨"LOAD", 0b10, 0b11⟩, ⟨"EMIT", 0b11, 0b11⟩]

/-- The rows an encoded instruction belongs to. -/
def Encoded.rows : Encoded → List OpcodeRow
  | .slot s => slotRows.filter (·.covers s.toWord.toNat)
  | .command p => commandRows.filter (·.covers p.cmd.toNat)

/-- An instruction's mnemonic, as spec/opcode_table.json writes it. -/
def Instr.mnemonic : Instr → String
  | .note _ _ _ => "NOTE"
  | .silent _ _ _ => "SILENT"
  | .endMark _ _ => "END"
  | .empty _ _ => "EMPTY"
  | .step _ => "STEP"
  | .reset _ => "RESET"
  | .load _ _ _ _ _ _ => "LOAD"
  | .emit _ => "EMIT"

end Sys2Proof
end

