-- ==== Sys2Proof/Machine/Ops.lean ====
section
/-! DEFINITION. The named operations: Track access, SlotRead, NoteROM, InstrROM and emit Tone (00_scope.md R8), and the
Track updates the commands share. There is no operation that takes an
exception or returns from one: the block has none (60_exceptions.md R69, R72). -/

namespace Sys2Proof.Machine

/-! ### Tracks -/

/-- The Track instance `t`, where a LOAD has created it (R74). -/
def State.track? (s : State) (t : Nat) : Option Track := (s.tracks[t]?).join

/-- Does instance `t` exist, loaded or not (R78: `t < N_TRACKS`)? -/
def State.hasTrack (s : State) (t : Nat) : Bool := (s.tracks[t]?).isSome

/-- Replace the state of instance `t`; no other instance is touched (R25). -/
def State.setTrack (s : State) (t : Nat) (T : Track) : State := { s with tracks := s.tracks.set t (some T) }

/-- Run `f` on the Track `t`, or refuse (R74). -/
def State.onTrack (s : State) (t : Nat) (f : Track → Host.Outcome State Fault Refusal) :
    Host.Outcome State Fault Refusal :=
  match s.track? t with
  | some T => f T
  | none => .refused .unloadedTrack

/-- Note which Track the STEP in progress addresses (R56, R78). -/
def State.addressStep (s : State) (t : Nat) : State := { s with stepping := t }

/-! ### The constant tables and the note table -/

/-- `SlotRead(T, i)` of R8: one whole slot (R29, R30). -/
def slotRead (T : Track) (i : Fin 32) : Slot := T.tones.get i

/-- `NoteROM(n)` of R8: `TRACK_NOTES[n]`, with `TRACK_NOTES[0] = 130` (R6). -/
def State.noteROM (s : State) (n : Fin 37) : Word :=
  if h : n.val = 0 then 130 else s.notesFrom1.get ⟨n.val - 1, by omega⟩

/-- `InstrROM(k)` of R8. -/
def instrROM (v : VoiceTable) (k : Fin v.size) : Voice := (v.first :: v.rest)[k.val]'k.isLt

/-! ### The output -/

/-- `emit Tone` of R8: one event at the end of the trace (R81). -/
def State.emitTone (s : State) (x : Tone) : State := { s with trace := s.trace ++ [x] }

/-! ### Track updates -/

/-- R57: one WAITING step. -/
def Track.countdown (T : Track) : Track := { T with wait := T.wait - 1 }

/-- R58: the cursor advance and the wait load that every opcode class shares. -/
def Track.advance (T : Track) (rawWait : Byte) : Track := { T with next := T.next + 1, wait := rawWait }

/-- R62: END's override of the cursor. -/
def Track.toSlotZero (T : Track) : Track := { T with next := 0 }

/-- R67: RESET. -/
def Track.rewound (T : Track) : Track := { T with next := 0, wait := 0 }

end Sys2Proof.Machine
end

