-- ==== Sys2Proof/Machine/Operands.lean ====
section
/-! DEFINITION. Operand assembly: the parameters of a NOTE's tone (30_encoding.md R41), EMIT's parameters with the defaults
of R46, and LOAD's table (42_track_control.md R65, R66). -/

namespace Sys2Proof.Machine

/-- `zext_32` of 00_scope.md R8. -/
def zext32 (b : Byte) : Word := b.setWidth 32

/-- The instrument index `instrument mod N_INSTR`, reduced at read time (10_state.md R17). -/
def instrumentIndex (v : VoiceTable) (instrument : Byte) : Fin v.size :=
  ⟨instrument.toNat % v.size, Nat.mod_lt _ (Nat.succ_pos _)⟩

/-- `(channel, mode)` of a Track's instrument (R56). -/
def State.voiceOf (s : State) (T : Track) : Voice := instrROM s.voices (instrumentIndex s.voices T.instrument)

/-- The release operand of a NOTE: the exact product of two bytes, in 32 bits (R9 (d), R41, D5). -/
def releaseOf (rawWait ticks : Byte) : Word := zext32 rawWait * zext32 ticks

/-- The ToneParams a STEP builds for NOTE `n` (R56, R60). -/
def State.noteParams (s : State) (T : Track) (n : Fin 37) (rawWait : Byte) : ToneParams :=
  { freq1 := s.noteROM n, freq2 := 0, attack := 0, decay := 0, sustain := 0,
    release := releaseOf rawWait T.ticks, volume := zext32 T.volume,
    channel := (s.voiceOf T).channel, mode := (s.voiceOf T).mode }

/-- The default ToneParams (R46). -/
def defaultParams : ToneParams :=
  { freq1 := 500, freq2 := 0, attack := 0, decay := 0, sustain := 30, release := 0, volume := 100, channel := 0,
    mode := 0 }

/-- EMIT's operand: a field the host omits takes its default (40_tone_encoder.md R55). -/
def emitParams (p : ToneOperand) : ToneParams :=
  { freq1 := p.freq1.getD defaultParams.freq1, freq2 := p.freq2.getD defaultParams.freq2,
    attack := p.attack.getD defaultParams.attack, decay := p.decay.getD defaultParams.decay,
    sustain := p.sustain.getD defaultParams.sustain, release := p.release.getD defaultParams.release,
    volume := p.volume.getD defaultParams.volume, channel := p.channel.getD defaultParams.channel,
    mode := p.mode.getD defaultParams.mode }

/-- The default table: 32 slots `(0xFF, 0, 0)` (R66, D7). -/
def defaultTable : Vector Slot 32 := Vector.replicate 32 ⟨opcodeEmpty, 0, 0⟩

/-- The table a LOAD stores (R65). -/
def tableOf : TableOperand → Vector Slot 32
  | .given tones => tones
  | .defaultTable => defaultTable

end Sys2Proof.Machine
end

