-- ==== Sys2Proof/Machine/ToneEncoder.lean ====
section
/-! DEFINITION. The Tone Encoder (40_tone_encoder.md R52, R53) and EMIT (R55). -/

namespace Sys2Proof.Machine

/-- ENCODE of R52: four 32-bit words, never clamped or masked (R53); sustain and release combine by OR (C2). -/
def encodeTone (p : ToneParams) : Tone :=
  { frequencyBits := p.freq1 ||| (p.freq2 <<< 16)
    envelopeBits := (p.attack <<< 24) ||| (p.decay <<< 16) ||| p.sustain ||| (p.release <<< 8)
    volume := p.volume
    channelModeBits := p.channel ||| (p.mode <<< 2) }

/-- EMIT (R55): one tone event, nothing else. -/
def execEmit (p : ToneOperand) (s : State) : Host.Outcome State Fault Refusal :=
  .next (s.emitTone (encodeTone (emitParams p)))

end Sys2Proof.Machine
end

