-- ==== Sys2Proof/Machine/Slots.lean ====
section
/-! DEFINITION. The four note-slot opcodes (41_track_step.md R58, R60 to R63), as an ADVANCING step of Track `stepping`
executes them. -/

namespace Sys2Proof.Machine

/-- NOTE (R60): one tone from the values before the step (R59), then the common advance. The flags byte is ignored (R42). -/
def execNote (n : Fin 37) (wait _flags : Byte) (s : State) : Host.Outcome State Fault Refusal :=
  s.onTrack s.stepping fun T =>
    .next ((s.emitTone (encodeTone (s.noteParams T n wait))).setTrack s.stepping (T.advance wait))

/-- SILENT (R61): no tone. -/
def execSilent (_n wait _flags : Byte) (s : State) : Host.Outcome State Fault Refusal :=
  s.onTrack s.stepping fun T => .next (s.setTrack s.stepping (T.advance wait))

/-- END (R62): no tone; the cursor is rewound after the common advance. -/
def execEnd (wait _flags : Byte) (s : State) : Host.Outcome State Fault Refusal :=
  s.onTrack s.stepping fun T => .next (s.setTrack s.stepping (T.advance wait).toSlotZero)

/-- EMPTY (R63): no tone. -/
def execEmpty (wait _flags : Byte) (s : State) : Host.Outcome State Fault Refusal :=
  s.onTrack s.stepping fun T => .next (s.setTrack s.stepping (T.advance wait))

/-- The opcode of a slot that has been read (R56, R58). -/
def runSlot (x : Slot) (s : State) : Host.Outcome State Fault Refusal :=
  match slotClass x.note with
  | .note n => execNote n x.wait x.flags s
  | .silent => execSilent x.note x.wait x.flags s
  | .endMark => execEnd x.wait x.flags s
  | .empty => execEmpty x.wait x.flags s

end Sys2Proof.Machine
end

