-- ==== Sys2Proof/Machine/Commands.lean ====
section
/-! DEFINITION. The host commands that address a Track: STEP (41_track_step.md R56), RESET and LOAD
(42_track_control.md R65 to R67). -/

namespace Sys2Proof.Machine

/-- STEP (R56): WAITING counts down (R57); ADVANCING reads one slot at the cursor and runs its opcode (R58). -/
def execStep (t : Nat) (s : State) : Host.Outcome State Fault Refusal :=
  s.onTrack t fun T =>
    if T.waiting then .next ((s.addressStep t).setTrack t T.countdown)
    else runSlot (slotRead T T.next) (s.addressStep t)

/-- RESET (R67): the cursor and the countdown only. -/
def execReset (t : Nat) (s : State) : Host.Outcome State Fault Refusal :=
  s.onTrack t fun T => .next (s.setTrack t T.rewound)

/-- The Track a LOAD creates (R65): every field, `next` and `wait` at 0 (D6). -/
def loadedTrack (table : TableOperand) (ticks instrument volume : Byte) (flags : Byte × Byte) : Track :=
  { next := 0, wait := 0, ticks := ticks, instrument := instrument, volume := volume, flags := flags,
    tones := tableOf table }

/-- LOAD (R65): creates the Track, or replaces its whole state. -/
def execLoad (t : Nat) (table : TableOperand) (ticks instrument volume : Byte) (flags : Byte × Byte) (s : State) :
    Host.Outcome State Fault Refusal :=
  if s.hasTrack t then .next (s.setTrack t (loadedTrack table ticks instrument volume flags))
  else .refused .noSuchTrack

end Sys2Proof.Machine
end

