-- ==== Sys2Proof/Machine/Dispatch.lean ====
section
/-! DEFINITION. One arm per instruction, each one direct call of its meaning. -/

namespace Sys2Proof.Machine

def exec (i : Instr) (s : State) : Host.Outcome State Fault Refusal :=
  match i with
  | .note n wait flags => Sys2Proof.Machine.execNote n wait flags s
  | .silent n wait flags => Sys2Proof.Machine.execSilent n wait flags s
  | .endMark wait flags => Sys2Proof.Machine.execEnd wait flags s
  | .empty wait flags => Sys2Proof.Machine.execEmpty wait flags s
  | .step t => Sys2Proof.Machine.execStep t s
  | .reset t => Sys2Proof.Machine.execReset t s
  | .load t table ticks instrument volume flags => Sys2Proof.Machine.execLoad t table ticks instrument volume flags s
  | .emit p => Sys2Proof.Machine.execEmit p s

end Sys2Proof.Machine
end

