-- ==== Sys2Proof/Machine/Fetch.lean ====
section
/-! DEFINITION. Taking the next command off the host's stream (60_exceptions.md R71, R83), and placing an instruction where
the next step fetches it (notes/assumptions/8.md). The slot read of a STEP is Ops.slotRead. -/

namespace Sys2Proof.Machine

/-- Take the next command off the stream and decode it (20_memory.md R33, 30_encoding.md R44); at the end of a run nothing
is left (R83). -/
def State.takeCommand (s : State) : Option (Instr × State) :=
  match s.commands with
  | [] => none
  | p :: rest => some (decodeCommand p, { s with commands := rest })

/-- Put a packet at the head of the stream. -/
def State.issue (s : State) (p : Packet) : State := { s with commands := p :: s.commands }

/-- Track 0 as it is, or, where no LOAD has created it, as a LOAD of the default table with zero bytes leaves it (R66). -/
def State.trackZero (s : State) : Track := (s.track? 0).getD (loadedTrack .defaultTable 0 0 0 (0, 0))

/-- Put a slot where the next STEP of this Track reads it: at the cursor, the countdown run out (R58). -/
def Track.withSlot (T : Track) (x : Slot) : Track := { T with wait := 0, tones := T.tones.set T.next.val x T.next.isLt }

/-- A slot placed for the next step: at the cursor of Track 0, with a STEP of Track 0 issued. -/
def State.placeSlot (s : State) (x : Slot) : State :=
  (s.setTrack 0 (s.trackZero.withSlot x)).issue { Packet.zero with cmd := 0b00 }

/-- A command placed for the next step, with its operand lines zero. STEP and RESET find Track 0 loaded. -/
def State.placeCommand (s : State) (cmd : BitVec 2) : State :=
  (if cmd = 0b00 ∨ cmd = 0b01 then s.setTrack 0 s.trackZero else s).issue { Packet.zero with cmd := cmd }

end Sys2Proof.Machine
end

