-- ==== Sys2Proof/Machine/Step.lean ====
section
/-! DEFINITION. One step of the machine: the next command of the host's stream (60_exceptions.md R71, R83), and the placing
of one instruction where the next step fetches it. -/

namespace Sys2Proof.Machine

/-- Take the next command and execute it, one atomic transition (20_memory.md R30). With no command left the block is idle
and keeps all state (42_track_control.md R68, 60_exceptions.md R80). DEDUCED: notes/assumptions/10.md. -/
def step (s : State) : Host.Outcome State Fault Refusal :=
  match s.takeCommand with
  | some (i, s') => exec i s'
  | none => .next s

/-- `s` with one instruction of the opcode table placed so that the next step runs it: 24 bits are a slot word (30_encoding.md
R39), otherwise a command word (R44), as `decodeTableWord` reads them (notes/assumptions/8.md). -/
def State.withFetchWord (s : State) (nbits w : Nat) : State :=
  match nbits with
  | 24 => s.placeSlot (Slot.ofWord (BitVec.ofNat 24 w))
  | _ => s.placeCommand (BitVec.ofNat 2 w)

end Sys2Proof.Machine
end

