-- ==== Sys2Proof/Safety.lean ====
section
/-! DEFINITION. What claims say of states and runs: the configuration premises of 70_reset_and_hazards.md R90, the field
ranges of a Track's tones (41_track_step.md R60), and the invariant that every step keeps. -/

namespace Sys2Proof

/-- The note-slot opcodes (30_encoding.md R40), as against the host commands (R44). -/
def Instr.isSlotOpcode : Instr → Bool
  | .note _ _ _ | .silent _ _ _ | .endMark _ _ | .empty _ _ => true
  | .step _ | .reset _ | .load _ _ _ _ _ _ | .emit _ => false

/-- The Track a host command names (R44); EMIT names none. -/
def Instr.addressed : Instr → Option Nat
  | .step t | .reset t | .load t _ _ _ _ _ => some t
  | .note _ _ _ | .silent _ _ _ | .endMark _ _ | .empty _ _ | .emit _ => none

end Sys2Proof

namespace Sys2Proof.Machine

/-- A run of `k` steps (60_exceptions.md R83), ending early where a command is refused. -/
def steps : Nat → State → Host.Outcome State Fault Refusal
  | 0, s => .next s
  | k + 1, s =>
    match step s with
    | .next s' => steps k s'
    | .refused r => .refused r
    | .fault r => .fault r

/-- `WF_NOTES` (R90, D8): every entry of `TRACK_NOTES` is below 2^16 (entry 0 is 130). -/
def State.wfNotes (s : State) : Prop := ∀ n : Fin 37, (s.noteROM n).toNat < 2 ^ 16

/-- `WF_INSTR` (R90, D9): every voice has `channel < 4` and `mode < 4`. -/
def State.wfInstr (s : State) : Prop := ∀ k : Fin s.voices.size,
  (instrROM s.voices k).channel.toNat < 4 ∧ (instrROM s.voices k).mode.toNat < 4

/-- No EMIT is left in the host's stream: from here on every tone comes from a Track. -/
def State.tracksOnly (s : State) : Prop := ∀ p ∈ s.commands, p.cmd ≠ 0b11

/-- What holds of a Track's tone on any tables (R60, R89): the top and the bottom byte of the envelope word are 0 (attack
and sustain are 0, and the release product is below 2^16), and the volume is a byte. -/
def Tone.fromTrack (x : Tone) : Prop :=
  x.envelopeBits.toNat < 2 ^ 24 ∧ x.envelopeBits.toNat % 2 ^ 8 = 0 ∧ x.volume.toNat < 2 ^ 8

/-- What holds of it besides on tables that respect their widths (R90): no secondary frequency, no bit above the mode. -/
def Tone.inWidths (x : Tone) : Prop := x.frequencyBits.toNat < 2 ^ 16 ∧ x.channelModeBits.toNat < 2 ^ 4

/-- At least one Track instance exists (R6: `N_TRACKS` at least 1). -/
def State.wf (s : State) : Bool := decide (1 ≤ s.tracks.length)

/-- The invariant: an instance exists; only Tracks sound; every tone so far is one a Track can emit, and within the
widths where the tables are. -/
def State.Inv (s : State) : Prop :=
  s.wf = true ∧ s.tracksOnly ∧ (∀ x ∈ s.trace, x.fromTrack) ∧
    (s.wfNotes → s.wfInstr → ∀ x ∈ s.trace, x.inWidths)

/-- What the block itself can tell apart: the state without the model's own record of the last STEP's Track. -/
def State.forgetStepping (s : State) : State := { s with stepping := 0 }

/-- Will this instruction run here (60_exceptions.md R69, R74, R78)? STEP, RESET and the slot opcodes need a loaded
Track, LOAD an instance that exists, EMIT nothing. -/
def State.canRun (s : State) : Instr → Bool
  | .note _ _ _ | .silent _ _ _ | .endMark _ _ | .empty _ _ => (s.track? s.stepping).isSome
  | .step t | .reset t => (s.track? t).isSome
  | .load t _ _ _ _ _ => decide (t < s.tracks.length)
  | .emit _ => true

end Sys2Proof.Machine
end

