-- ==== Sys2Proof/Certificates/Slice0/Obligations.lean ====
section
/-! DEFINITION. The statements about the model, for the provers. Each docstring names the rule of spec/ it formalises; a
clause that is the model's own convention says so and names its entry in notes/assumptions. -/

open Sys2Proof Sys2Proof.Machine

/-! ### Encoding (30_encoding.md) -/

/-- R40, R44: decoding an encoded instruction gives it back, whatever its operands. The operand lines of a command are the
model's (notes/assumptions/3.md). -/
def Obligations.DecodeEncode : Prop :=
  ∀ i : Instr, i.wellFormed = true → decode (encode i) = i

/-- R40, R43: every one of the slots there are decodes to a well-formed instruction, and encoding that gives the slot
back, its reserved flags byte included. -/
def Obligations.EncodeDecodeSlot : Prop :=
  ∀ x : Slot, (decodeSlot x).wellFormed = true ∧ encode (decodeSlot x) = .slot x

/-- R39: note is S[23:16], wait S[15:8], flags S[7:0], and nothing else is in the slot word. -/
def Obligations.SlotWordFields : Prop :=
  ∀ S : BitVec 24,
    (Slot.ofWord S).note.toNat = S.toNat / 2 ^ 16 ∧ (Slot.ofWord S).wait.toNat = S.toNat / 2 ^ 8 % 2 ^ 8 ∧
      (Slot.ofWord S).flags.toNat = S.toNat % 2 ^ 8 ∧ (Slot.ofWord S).toWord = S

/-- R40: the note byte alone decides the class: 0 to 36 NOTE, 37 to 253 SILENT, 254 END, 255 EMPTY. -/
def Obligations.SlotClasses : Prop :=
  ∀ x : Slot, ∀ n : Fin 37,
    (x.note.toNat = n.val → decodeSlot x = .note n x.wait x.flags) ∧
      (37 ≤ x.note.toNat → x.note.toNat ≤ 253 → decodeSlot x = .silent x.note x.wait x.flags) ∧
      (x.note.toNat = 254 → decodeSlot x = .endMark x.wait x.flags) ∧
      (x.note.toNat = 255 → decodeSlot x = .empty x.wait x.flags)

/-- R44: the four command codes and the operands each command names. -/
def Obligations.CommandCodes : Prop :=
  ∀ p : Packet,
    (p.cmd = 0b00 → decodeCommand p = .step p.track) ∧ (p.cmd = 0b01 → decodeCommand p = .reset p.track) ∧
      (p.cmd = 0b10 → decodeCommand p = .load p.track p.table p.ticks p.instrument p.volume p.flags) ∧
      (p.cmd = 0b11 → decodeCommand p = .emit p.params)

/-- Words written out from R39, R40, R44 and 95_test_vectors.md decode to their instructions. In the last
two clauses R44 gives only the command code: that a bare code word has zero operand lines, and so addresses Track 0, is the
model's choice (notes/assumptions/8.md, with the operand lines of 3.md). -/
def Obligations.SampleWords : Prop :=
  decodeTableWord 24 0x000300 = some (.note 0 3 0) ∧ decodeTableWord 24 0x240100 = some (.note 36 1 0) ∧
    decodeTableWord 24 0x250200 = some (.silent 37 2 0) ∧ decodeTableWord 24 0xFD00AB = some (.silent 253 0 0xAB) ∧
    decodeTableWord 24 0xFE0100 = some (.endMark 1 0) ∧ decodeTableWord 24 0xFF0000 = some (.empty 0 0) ∧
    decodeTableWord 8 0b00 = some (.step 0) ∧ decodeTableWord 8 0b01 = some (.reset 0)

/-- R42: replace the flags bytes of a Track's slots by any others, and a STEP does the same: the same tone or none, and the
same Track but for those flags bytes. -/
def Obligations.SlotFlagsInert : Prop :=
  ∀ (s : State) (t : Nat) (T : Track) (tones' : Vector Slot 32), s.track? t = some T →
    (∀ k : Fin 32, (tones'.get k).note = (T.tones.get k).note ∧ (tones'.get k).wait = (T.tones.get k).wait) →
      ∃ (u u' : State) (U : Track), exec (.step t) s = .next u ∧
        exec (.step t) { s with tracks := s.tracks.set t (some { T with tones := tones' }) } = .next u' ∧
        u'.trace = u.trace ∧ u.track? t = some U ∧ u'.track? t = some { U with tones := tones' }

/-! ### The Tone Encoder and EMIT (40_tone_encoder.md) -/

/-- R52, R53, R55 (with the defaults of R46): EMIT appends the one tone whose words are the formulas of R52 on the full
32-bit fields, `a << n` being `(a * 2^n) mod 2^32` (R8), an omitted field taking its default; nothing else changes. Its
command code is 0b11. -/
def Obligations.EmitEffect : Prop :=
  (∀ q : Packet, q.cmd = 0b11 → decodeCommand q = .emit q.params) ∧
  ∀ (p : ToneOperand) (s : State),
    let shl := fun (a : Word) (n : Nat) => BitVec.ofNat 32 (a.toNat * 2 ^ n)
    exec (.emit p) s = .next { s with trace := s.trace ++
      [{ frequencyBits := p.freq1.getD 500 ||| shl (p.freq2.getD 0) 16
         envelopeBits :=
           shl (p.attack.getD 0) 24 ||| shl (p.decay.getD 0) 16 ||| p.sustain.getD 30 ||| shl (p.release.getD 0) 8
         volume := p.volume.getD 100
         channelModeBits := p.channel.getD 0 ||| shl (p.mode.getD 0) 2 }] }

/-- R54: every field is recovered from the words when the fields are within their intended widths, sustain within 8 bits
when release is not 0 and within 16 bits otherwise. -/
def Obligations.FieldRecovery : Prop :=
  ∀ p : ToneParams, p.freq1.toNat < 2 ^ 16 → p.freq2.toNat < 2 ^ 16 → p.attack.toNat < 2 ^ 8 → p.decay.toNat < 2 ^ 8 →
    p.release.toNat < 2 ^ 8 → p.sustain.toNat < (if p.release = 0 then 2 ^ 16 else 2 ^ 8) → p.channel.toNat < 4 →
    p.mode.toNat < 4 →
      let x := encodeTone p
      p.freq1 = (x.frequencyBits.extractLsb' 0 16).setWidth 32 ∧
        p.freq2 = (x.frequencyBits.extractLsb' 16 16).setWidth 32 ∧
        p.attack = (x.envelopeBits.extractLsb' 24 8).setWidth 32 ∧
        p.decay = (x.envelopeBits.extractLsb' 16 8).setWidth 32 ∧
        (p.sustain.toNat < 2 ^ 8 → p.release = (x.envelopeBits.extractLsb' 8 8).setWidth 32) ∧
        (p.sustain.toNat < 2 ^ 8 → p.sustain = (x.envelopeBits.extractLsb' 0 8).setWidth 32) ∧
        (p.release = 0 → p.sustain = (x.envelopeBits.extractLsb' 0 16).setWidth 32) ∧
        p.volume = x.volume ∧ p.channel = (x.channelModeBits.extractLsb' 0 2).setWidth 32 ∧
        p.mode = (x.channelModeBits.extractLsb' 2 2).setWidth 32

/-- R47 to R50: within the intended widths (and sustain within 8 bits) each word is the sum of its fields at their places;
the channel/mode word has nothing above bit 3. -/
def Obligations.WordValuesInWidths : Prop :=
  ∀ p : ToneParams, p.freq1.toNat < 2 ^ 16 → p.freq2.toNat < 2 ^ 16 → p.attack.toNat < 2 ^ 8 → p.decay.toNat < 2 ^ 8 →
    p.release.toNat < 2 ^ 8 → p.sustain.toNat < 2 ^ 8 → p.channel.toNat < 4 → p.mode.toNat < 4 →
      let x := encodeTone p
      x.frequencyBits.toNat = p.freq2.toNat * 2 ^ 16 + p.freq1.toNat ∧
        x.envelopeBits.toNat =
          p.attack.toNat * 2 ^ 24 + p.decay.toNat * 2 ^ 16 + p.release.toNat * 2 ^ 8 + p.sustain.toNat ∧
        x.volume.toNat = p.volume.toNat ∧ x.channelModeBits.toNat = p.mode.toNat * 4 + p.channel.toNat ∧
        x.channelModeBits.toNat < 16

/-- 90_conflicts.md C6: the recovery property of R54 without its condition on sustain is false. Two inputs, each field
within its nominal width (sustain within 16 bits) and release not 0 in either, have the same four words. -/
def Obligations.UnconditionedRecoveryFails : Prop :=
  ∃ p q : ToneParams, p ≠ q ∧ encodeTone p = encodeTone q ∧ p.release ≠ 0 ∧ q.release ≠ 0 ∧ p.release.toNat < 2 ^ 8 ∧
    q.release.toNat < 2 ^ 8 ∧ p.sustain.toNat < 2 ^ 16 ∧ q.sustain.toNat < 2 ^ 16 ∧
    { p with release := 0, sustain := 0 } = ToneParams.zero ∧ { q with release := 0, sustain := 0 } = ToneParams.zero

/-! ### The slot opcodes (41_track_step.md) -/

/-- R60: NOTE, read by an ADVANCING step of a loaded Track, emits exactly the tone of R60 and advances the Track; nothing
else changes. The instrument index is in range (R17), and TRACK_NOTES[0] is 130 (R6). Its note bytes are 0 to 36. That the slot opcode finds its Track
in `stepping` is the model's convention (notes/assumptions/4.md). -/
def Obligations.NoteEffect : Prop :=
  (∀ (x : Slot) (n : Fin 37), x.note.toNat = n.val → decodeSlot x = .note n x.wait x.flags) ∧
  ∀ (n : Fin 37) (w f : Byte) (s : State) (T : Track), s.track? s.stepping = some T → T.wait = 0 →
    ∃ (v : Voice) (freq : Word),
      (s.voices.first :: s.voices.rest)[T.instrument.toNat % (s.voices.rest.length + 1)]? = some v ∧
      (130#32 :: s.notesFrom1.toList)[n.val]? = some freq ∧
      exec (.note n w f) s = .next { s with
        trace := s.trace ++
          [{ frequencyBits := freq
             envelopeBits := BitVec.ofNat 32 (w.toNat * T.ticks.toNat * 2 ^ 8)
             volume := BitVec.ofNat 32 T.volume.toNat
             channelModeBits := v.channel ||| BitVec.ofNat 32 (v.mode.toNat * 2 ^ 2) }]
        tracks := s.tracks.set s.stepping (some { T with next := Fin.ofNat 32 (T.next.val + 1), wait := w }) }

/-- R61: SILENT, note bytes 37 to 253, emits nothing, advances the cursor modulo 32 and loads the countdown; nothing else
changes. That it finds its Track in `stepping` is the model's convention
(notes/assumptions/4.md). -/
def Obligations.SilentEffect : Prop :=
  (∀ x : Slot, 37 ≤ x.note.toNat → x.note.toNat ≤ 253 → decodeSlot x = .silent x.note x.wait x.flags) ∧
  ∀ (n w f : Byte) (s : State) (T : Track), (Instr.silent n w f).wellFormed = true → s.track? s.stepping = some T →
    T.wait = 0 →
      exec (.silent n w f) s = .next { s with
        tracks := s.tracks.set s.stepping (some { T with next := Fin.ofNat 32 (T.next.val + 1), wait := w }) }

/-- R63: EMPTY, note byte 0xFF, does the same as SILENT. That it finds its Track in `stepping` is the model's convention
(notes/assumptions/4.md). -/
def Obligations.EmptyEffect : Prop :=
  (∀ x : Slot, x.note = 0xFF → decodeSlot x = .empty x.wait x.flags) ∧
  ∀ (w f : Byte) (s : State) (T : Track), s.track? s.stepping = some T → T.wait = 0 →
    exec (.empty w f) s = .next { s with
      tracks := s.tracks.set s.stepping (some { T with next := Fin.ofNat 32 (T.next.val + 1), wait := w }) }

/-- R62: END, note byte 0xFE, emits nothing, rewinds the cursor to slot 0, wherever it stood, and loads the countdown;
nothing else changes. That it finds its Track in `stepping` is the model's convention
(notes/assumptions/4.md). -/
def Obligations.EndEffect : Prop :=
  (∀ x : Slot, x.note = 0xFE → decodeSlot x = .endMark x.wait x.flags) ∧
  ∀ (w f : Byte) (s : State) (T : Track), s.track? s.stepping = some T → T.wait = 0 →
    exec (.endMark w f) s = .next { s with
      tracks := s.tracks.set s.stepping (some { T with next := 0, wait := w }) }

/-- R58 ("Not written"), R25: the frame of NOTE, SILENT, END and EMPTY. Only `next` and `wait` of the one Track, and the
trace, may change. That they act on the Track in `stepping`, and on a WAITING Track as on an ADVANCING one, is the model's
choice (notes/assumptions/4.md, 9.md). -/
def Obligations.SlotOpcodeFrame : Prop :=
  ∀ (i : Instr) (s s' : State), i.isSlotOpcode = true → exec i s = .next s' →
    (∀ u, u ≠ s.stepping → s'.track? u = s.track? u) ∧ s'.notesFrom1 = s.notesFrom1 ∧ s'.voices = s.voices ∧
      s'.commands = s.commands ∧ s'.stepping = s.stepping ∧ s'.tracks.length = s.tracks.length ∧
      ∃ T T', s.track? s.stepping = some T ∧ s'.track? s.stepping = some T' ∧ T'.ticks = T.ticks ∧
        T'.instrument = T.instrument ∧ T'.volume = T.volume ∧ T'.flags = T.flags ∧
        ∀ k : Fin 32, slotRead T' k = slotRead T k

/-- R60, R88: in the envelope word of a NOTE's tone the low byte of the release product stands in bits 15:8 and the rest of
it in the decay byte position, so that this byte is 0 exactly where the product is at most 255; attack and sustain are 0. -/
def Obligations.ReleaseBleed : Prop :=
  ∀ (s : State) (T : Track) (n : Fin 37) (w : Byte),
    let e := (encodeTone (s.noteParams T n w)).envelopeBits
    e.toNat = w.toNat * T.ticks.toNat * 2 ^ 8 ∧ (e.extractLsb' 24 8).toNat = 0 ∧ (e.extractLsb' 0 8).toNat = 0 ∧
      (e.extractLsb' 8 8).toNat = w.toNat * T.ticks.toNat % 2 ^ 8 ∧
      (e.extractLsb' 16 8).toNat = w.toNat * T.ticks.toNat / 2 ^ 8 ∧
      ((e.extractLsb' 16 8).toNat = 0 ↔ w.toNat * T.ticks.toNat ≤ 255)

/-! ### STEP (41_track_step.md) -/

/-- R56: the whole of STEP (command code 0b00) on a loaded Track, both branches; what it reads it reads before the step (R59). `stepping` is the
model's record of the Track addressed (notes/assumptions/4.md). -/
def Obligations.StepEffect : Prop :=
  (∀ q : Packet, q.cmd = 0b00 → decodeCommand q = .step q.track) ∧
  ∀ (s : State) (t : Nat) (T : Track), s.track? t = some T →
    let x := T.tones.get T.next
    ∃ v : Voice, (s.voices.first :: s.voices.rest)[T.instrument.toNat % (s.voices.rest.length + 1)]? = some v ∧
      exec (.step t) s = .next
        (if 0 < T.wait.toNat then
          { s with stepping := t, tracks := s.tracks.set t (some { T with wait := BitVec.ofNat 8 (T.wait.toNat - 1) }) }
        else
          { s with
            stepping := t
            trace := s.trace ++ (if x.note.toNat < 37 then
              [{ frequencyBits := (130#32 :: s.notesFrom1.toList).getD x.note.toNat 0
                 envelopeBits := BitVec.ofNat 32 (x.wait.toNat * T.ticks.toNat * 2 ^ 8)
                 volume := BitVec.ofNat 32 T.volume.toNat
                 channelModeBits := v.channel ||| BitVec.ofNat 32 (v.mode.toNat * 2 ^ 2) }] else [])
            tracks := s.tracks.set t (some { T with
              next := if x.note = 0xFE then 0 else Fin.ofNat 32 (T.next.val + 1)
              wait := x.wait }) })

/-- R56, R58: an ADVANCING STEP is the instruction that the slot at the cursor decodes to, executed for that Track,
which the model records in `stepping` (notes/assumptions/4.md). -/
def Obligations.StepRunsSlot : Prop :=
  ∀ (s : State) (t : Nat) (T : Track), s.track? t = some T → T.wait = 0 →
    exec (.step t) s = exec (decodeSlot (slotRead T T.next)) { s with stepping := t }

/-- R57: from `wait = n`, every one of up to n consecutive STEPs is a WAITING step: it takes one off `wait`, emits nothing
and changes nothing else (C5). `stepping` and `commands` are the model's (notes/assumptions/2.md, 4.md). -/
def Obligations.WaitCountdown : Prop :=
  ∀ (s : State) (t k : Nat) (T : Track) (p : Packet) (rest : List Packet), s.track? t = some T → k ≤ T.wait.toNat →
    decodeCommand p = .step t → s.commands = List.replicate k p ++ rest →
      steps k s = .next { s with
        commands := rest
        stepping := if k = 0 then s.stepping else t
        tracks := s.tracks.set t (some { T with wait := BitVec.ofNat 8 (T.wait.toNat - k) }) }

/-- R64, R87: the slot that an ADVANCING STEP reads holds the Track for `w + 1` STEPs, `w` its wait byte, whatever its class
and whatever `ticks` is: after `j + 1` of them the countdown stands at `w - j`, the cursor stands where the slot sent it, and
no tone has come but the slot's own. The stream is the model's (notes/assumptions/2.md). -/
def Obligations.SlotHold : Prop :=
  ∀ (s : State) (t j : Nat) (T : Track) (p : Packet) (rest : List Packet), s.track? t = some T → T.wait = 0 →
    j ≤ (slotRead T T.next).wait.toNat → decodeCommand p = .step t → s.commands = List.replicate (j + 1) p ++ rest →
      ∃ (u : State) (l : List Tone), steps (j + 1) s = .next u ∧ u.commands = rest ∧
        u.trace = s.trace ++ l ∧ l.length = (if (slotRead T T.next).note.toNat < 37 then 1 else 0) ∧
        u.track? t = some { T with
          next := if (slotRead T T.next).note = 0xFE then 0 else Fin.ofNat 32 (T.next.val + 1)
          wait := BitVec.ofNat 8 ((slotRead T T.next).wait.toNat - j) }

/-- R62 (corner cases): END with wait byte 0 in slot 0 makes every STEP read slot 0 and emit nothing, a loop of period 1.
`stepping` and `commands` are the model's (notes/assumptions/2.md, 4.md). -/
def Obligations.EndLoop : Prop :=
  ∀ (s : State) (t k : Nat) (T : Track) (f : Byte) (p : Packet) (rest : List Packet), s.track? t = some T →
    T.next = 0 → T.wait = 0 → slotRead T 0 = ⟨0xFE, 0, f⟩ → decodeCommand p = .step t →
      s.commands = List.replicate k p ++ rest →
        steps k s = .next { s with
          commands := rest, stepping := if k = 0 then s.stepping else t }

/-! ### RESET and LOAD (42_track_control.md) -/

/-- R67: RESET (command code 0b01) sets `next` and `wait` of a loaded Track to 0 and changes nothing else; a second one changes nothing. -/
def Obligations.ResetEffect : Prop :=
  (∀ q : Packet, q.cmd = 0b01 → decodeCommand q = .reset q.track) ∧
  ∀ (s : State) (t : Nat) (T : Track), s.track? t = some T →
    exec (.reset t) s = .next { s with tracks := s.tracks.set t (some { T with next := 0, wait := 0 }) } ∧
      ∀ s', exec (.reset t) s = .next s' → exec (.reset t) s' = .next s'

/-- R65: LOAD (command code 0b10) of an instance that exists writes every field, loaded before or not: the operands as they are, `next` and
`wait` 0, and the default table as 32 slots (0xFF, 0, 0) (R66). No tone, nothing else. -/
def Obligations.LoadEffect : Prop :=
  (∀ q : Packet, q.cmd = 0b10 →
    decodeCommand q = .load q.track q.table q.ticks q.instrument q.volume q.flags) ∧
  ∀ (s : State) (t : Nat) (table : TableOperand) (ticks instrument volume : Byte) (flags : Byte × Byte),
    t < s.tracks.length →
      exec (.load t table ticks instrument volume flags) s = .next { s with
        tracks := s.tracks.set t (some
          { next := 0, wait := 0, ticks := ticks, instrument := instrument, volume := volume, flags := flags
            tones := match table with
              | .given tones => tones
              | .defaultTable => Vector.replicate 32 ⟨0xFF, 0, 0⟩ }) }

/-- The model's convention (notes/assumptions/5.md): a LOAD that names no instance is refused by name. -/
def Obligations.LoadNoSuchTrack : Prop :=
  ∀ (s : State) (t : Nat) (table : TableOperand) (ticks instrument volume : Byte) (flags : Byte × Byte),
    s.tracks.length ≤ t → exec (.load t table ticks instrument volume flags) s = .refused .noSuchTrack

/-- R66: after a LOAD of the default table, k STEPs emit no tone and leave the cursor at k modulo 32 and the countdown at
0. `stepping` and `commands` are the model's (notes/assumptions/2.md, 4.md). -/
def Obligations.DefaultTableSilent : Prop :=
  ∀ (s : State) (t k : Nat) (ticks instrument volume : Byte) (flags : Byte × Byte) (l p : Packet) (rest : List Packet),
    t < s.tracks.length → decodeCommand l = .load t .defaultTable ticks instrument volume flags →
      decodeCommand p = .step t → s.commands = l :: List.replicate k p ++ rest →
        steps (k + 1) s = .next { s with
          commands := rest
          stepping := if k = 0 then s.stepping else t
          tracks := s.tracks.set t (some
            { next := Fin.ofNat 32 k, wait := 0, ticks := ticks, instrument := instrument, volume := volume
              flags := flags, tones := Vector.replicate 32 ⟨0xFF, 0, 0⟩ }) }

/-! ### Refusal and completion (60_exceptions.md) -/

/-- R74: STEP and RESET of a Track that no LOAD has created are refused; EMIT never is. -/
def Obligations.UnloadedRefused : Prop :=
  (∀ (s : State) (t : Nat), s.track? t = none →
    exec (.step t) s = .refused .unloadedTrack ∧ exec (.reset t) s = .refused .unloadedTrack) ∧
  ∀ (s : State) (p : ToneOperand), ∃ s', exec (.emit p) s = .next s'

/-- R69, R73, R74: every operation is total. An instruction answers a next state exactly where its Track is loaded (for
LOAD: exists), in every state and for every operand, and is refused by name otherwise; nothing else stops. Of STEP, RESET and
EMIT the rules say this. The rest is the model's choice: a slot opcode's Track is the one in `stepping`
(notes/assumptions/4.md), it is refused as unloadedTrack where that Track is not loaded (5.md), and it answers a next state on
a WAITING Track too (9.md); a LOAD without an instance is refused as noSuchTrack (5.md). -/
def Obligations.ExecTotal : Prop :=
  ∀ (i : Instr) (s : State),
    ((∃ s', exec i s = .next s') ↔ s.canRun i = true) ∧
      (s.canRun i = false → (∃ t tb tk n v f, i = .load t tb tk n v f ∧ exec i s = .refused .noSuchTrack) ∨
        ((∀ t tb tk n v f, i ≠ .load t tb tk n v f) ∧ exec i s = .refused .unloadedTrack))

/-! ### The machine's step -/

/-- R33, R71, R83: a step takes the next command of the stream and executes what it decodes to, on the state without it.
The stream is the model's (notes/assumptions/2.md). -/
def Obligations.StepTakesCommand : Prop :=
  ∀ (s : State) (p : Packet) (rest : List Packet), s.commands = p :: rest →
    step s = exec (decodeCommand p) { s with commands := rest }

/-- R56, R58, R71: where the next command is a STEP of an ADVANCING Track, a step of the machine is the instruction that
the slot at that Track's cursor decodes to. The stream and `stepping` are the model's (notes/assumptions/2.md, 4.md). -/
def Obligations.StepRunsFetchedSlot : Prop :=
  ∀ (s : State) (t : Nat) (T : Track) (p : Packet) (rest : List Packet), s.commands = p :: rest →
    decodeCommand p = .step t → s.track? t = some T → T.wait = 0 →
      step s = exec (decodeSlot (slotRead T T.next)) { s with commands := rest, stepping := t }

/-- R68, R80: with no command the machine keeps its state (the model's inference: notes/assumptions/10.md). -/
def Obligations.IdleKeepsState : Prop :=
  ∀ s : State, s.commands = [] → step s = .next s

/-! ### The whole machine -/

/-- R81: the output trace is append-only; EMIT appends one event, STEP none or one, RESET and LOAD none. R60 to R63, as an
ADVANCING step reads the slot: NOTE appends one event, SILENT, END and EMPTY none. That a slot opcode acts on the Track in
`stepping` (notes/assumptions/4.md), and does the same where that Track is WAITING (9.md), is the model's choice. -/
def Obligations.TraceGrows : Prop :=
  ∀ (i : Instr) (s s' : State), exec i s = .next s' →
    ∃ l, s'.trace = s.trace ++ l ∧ match i with
      | .note _ _ _ | .emit _ => l.length = 1
      | .step _ => l.length ≤ 1
      | .silent _ _ _ | .endMark _ _ | .empty _ _ | .reset _ | .load _ _ _ _ _ _ => l = []

/-- R20: no step writes a constant table (or changes the number of instances). That a step without a
command is idle is the model's inference (notes/assumptions/10.md). -/
def Obligations.ConstantTables : Prop :=
  ∀ s s' : State, step s = .next s' →
    s'.notesFrom1 = s.notesFrom1 ∧ s'.voices = s.voices ∧ s'.tracks.length = s.tracks.length

/-- R15, R16, R19, R37, R91: only LOAD writes a Track's control fields, its flags pair or a slot of its note table, and a
loaded Track stays loaded. A slot opcode's Track is the one in `stepping`, WAITING or not (notes/assumptions/4.md, 9.md). -/
def Obligations.OnlyLoadWritesTable : Prop :=
  ∀ (i : Instr) (s s' : State) (t : Nat) (T : Track), (∀ tb tk n v f, i ≠ .load t tb tk n v f) → exec i s = .next s' →
    s.track? t = some T →
      ∃ T', s'.track? t = some T' ∧ T'.ticks = T.ticks ∧ T'.instrument = T.instrument ∧ T'.volume = T.volume ∧
        T'.flags = T.flags ∧ ∀ k : Fin 32, slotRead T' k = slotRead T k

/-- R74, R84, R85: at power-on every Track is unloaded, and only a LOAD of it ends that. A slot
opcode's Track is the one in `stepping` (notes/assumptions/4.md). -/
def Obligations.UnloadedUntilLoad : Prop :=
  (∀ t, State.reset.track? t = none) ∧
    ∀ (i : Instr) (s s' : State) (t : Nat), (∀ tb tk n v f, i ≠ .load t tb tk n v f) → exec i s = .next s' →
      s.track? t = none → s'.track? t = none

/-- R25: the frame of STEP, RESET and LOAD between Tracks. A command leaves every Track it does not address, the constant
tables and the stream as they were. -/
def Obligations.TrackCommandFrame : Prop :=
  ∀ (i : Instr) (s s' : State) (t : Nat), i.addressed = some t → exec i s = .next s' →
    (∀ u, u ≠ t → s'.track? u = s.track? u) ∧ s'.notesFrom1 = s.notesFrom1 ∧ s'.voices = s.voices ∧
      s'.commands = s.commands ∧ s'.tracks.length = s.tracks.length

/-- R55 ("State written: none"): the frame of EMIT. -/
def Obligations.EmitFrame : Prop :=
  ∀ (p : ToneOperand) (s s' : State), exec (.emit p) s = .next s' →
    s'.tracks = s.tracks ∧ s'.notesFrom1 = s.notesFrom1 ∧ s'.voices = s.voices ∧ s'.commands = s.commands ∧
      s'.stepping = s.stepping

/-- R34: commands to different Tracks commute with respect to the Tracks, and not with respect to the trace, which takes
their tones in the order of the commands. -/
def Obligations.CommandsCommute : Prop :=
  ∀ (i j : Instr) (t u : Nat) (s s₁ s₂ : State), i.addressed = some t → j.addressed = some u → t ≠ u →
    exec i s = .next s₁ → exec j s₁ = .next s₂ →
      ∃ (s₁' s₂' : State) (li lj : List Tone), exec j s = .next s₁' ∧ exec i s₁' = .next s₂' ∧
        s₂'.tracks = s₂.tracks ∧ s₁.trace = s.trace ++ li ∧ s₁'.trace = s.trace ++ lj ∧
        s₂.trace = s.trace ++ (li ++ lj) ∧ s₂'.trace = s.trace ++ (lj ++ li)

/-- R25, R78: what a command does to its Track, and the tone it emits, depend on that Track and the constant tables alone:
not on another Track, on the trace, on the stream or on `stepping`. -/
def Obligations.TrackNoninterference : Prop :=
  ∀ (i : Instr) (s s' : State) (t : Nat) (T : Track), i.addressed = some t → s.track? t = some T →
    s'.track? t = some T → s'.notesFrom1 = s.notesFrom1 → s'.voices = s.voices →
      ∃ (u u' : State) (U : Track) (l : List Tone), exec i s = .next u ∧ exec i s' = .next u' ∧ u.track? t = some U ∧
        u'.track? t = some U ∧ u.trace = s.trace ++ l ∧ u'.trace = s'.trace ++ l

/-- R22, for the model's own field `stepping` (notes/assumptions/4.md): its value before a step is never observed. -/
def Obligations.SteppingUnobserved : Prop :=
  ∀ (s : State) (k : Nat),
    match step s, step { s with stepping := k } with
    | .next a, .next b => a.forgetStepping = b.forgetStepping
    | .refused a, .refused b => a = b
    | _, _ => False

/-- The invariant of Safety.lean holds at State.reset. An instance exists (R6). The clauses on the trace and on the stream
hold because the model makes both empty at reset, its choice (notes/assumptions/6.md, 2.md). -/
def Obligations.ResetInv : Prop := State.reset.Inv

/-- R60, R89, R90 over every step: where only Tracks sound, every tone in the trace has a zero top byte and a zero
bottom byte in its envelope word and a byte of volume, and, on tables within their widths, no secondary frequency and no bit
above the mode. The stream, and the idle step at its end, are the model's (notes/assumptions/2.md, 10.md). -/
def Obligations.StepKeepsInv : Prop :=
  ∀ s s' : State, s.Inv → step s = .next s' → s'.Inv
end

