-- ==== Sys2Proof/Laws/Encoding.lean ====
section
/-! SUPPORT. What the slot decoder can answer, the slot word as a number, and packing as arithmetic. -/

namespace Sys2Proof

/-- The four cases of a note byte (30_encoding.md R40). -/
theorem slotClass_cases (b : Byte) :
    (∃ h : b.toNat < 37, slotClass b = .note ⟨b.toNat, h⟩) ∨ (b = 0xFE#8 ∧ slotClass b = .endMark) ∨
      (b = 0xFF#8 ∧ slotClass b = .empty) ∨
      (37 ≤ b.toNat ∧ b ≠ 0xFE#8 ∧ b ≠ 0xFF#8 ∧ slotClass b = .silent) := by
  by_cases h : b.toNat < 37
  · exact .inl ⟨h, by simp [slotClass, h]⟩
  by_cases hE : b = 0xFE#8
  · subst hE; exact .inr (.inl ⟨rfl, by decide⟩)
  by_cases hF : b = 0xFF#8
  · subst hF; exact .inr (.inr (.inl ⟨rfl, by decide⟩))
  exact .inr (.inr (.inr ⟨by omega, hE, hF, by simp [slotClass, opcodeEnd, opcodeEmpty, h, hE, hF]⟩))

/-- The slot word as a number (R39). -/
theorem Slot.toNat_toWord (x : Slot) :
    x.toWord.toNat = x.note.toNat * 2 ^ 16 + x.wait.toNat * 2 ^ 8 + x.flags.toNat := by
  have hw := x.wait.isLt
  have hf := x.flags.isLt
  rw [Slot.toWord, BitVec.toNat_append, BitVec.toNat_append, ← Nat.shiftLeft_add_eq_or_of_lt hf,
    ← Nat.shiftLeft_add_eq_or_of_lt hw]
  simp only [Nat.shiftLeft_eq]
  omega

/-- A 32-bit left shift is multiplication modulo 2^32 (00_scope.md R8). -/
theorem ofNat_mul_two_pow (a : Word) (n : Nat) : BitVec.ofNat 32 (a.toNat * 2 ^ n) = a <<< n := by
  apply BitVec.eq_of_toNat_eq
  simp [BitVec.toNat_shiftLeft, Nat.shiftLeft_eq]

/-- OR of fields that do not overlap is their sum. -/
theorem or_eq_add_of_lt (a : Nat) {b n : Nat} (h : b < 2 ^ n) : a * 2 ^ n ||| b = a * 2 ^ n + b := by
  rw [← Nat.shiftLeft_eq, Nat.shiftLeft_add_eq_or_of_lt h]

end Sys2Proof
end

