-- ==== Sys2Proof/Laws/State.lean ====
section
/-! SUPPORT. One lemma per field per update of the state and of a Track, each true by rfl. -/

namespace Sys2Proof.Machine

section
variable (s : State) (t : Nat) (T : Track) (x : Tone) (p : Packet) (w : Byte)

@[simp] theorem State.setTrack_tracks : (s.setTrack t T).tracks = s.tracks.set t (some T) := rfl
@[simp] theorem State.setTrack_notesFrom1 : (s.setTrack t T).notesFrom1 = s.notesFrom1 := rfl
@[simp] theorem State.setTrack_voices : (s.setTrack t T).voices = s.voices := rfl
@[simp] theorem State.setTrack_trace : (s.setTrack t T).trace = s.trace := rfl
@[simp] theorem State.setTrack_commands : (s.setTrack t T).commands = s.commands := rfl
@[simp] theorem State.setTrack_stepping : (s.setTrack t T).stepping = s.stepping := rfl

@[simp] theorem State.addressStep_tracks : (s.addressStep t).tracks = s.tracks := rfl
@[simp] theorem State.addressStep_notesFrom1 : (s.addressStep t).notesFrom1 = s.notesFrom1 := rfl
@[simp] theorem State.addressStep_voices : (s.addressStep t).voices = s.voices := rfl
@[simp] theorem State.addressStep_trace : (s.addressStep t).trace = s.trace := rfl
@[simp] theorem State.addressStep_commands : (s.addressStep t).commands = s.commands := rfl
@[simp] theorem State.addressStep_stepping : (s.addressStep t).stepping = t := rfl

@[simp] theorem State.emitTone_tracks : (s.emitTone x).tracks = s.tracks := rfl
@[simp] theorem State.emitTone_notesFrom1 : (s.emitTone x).notesFrom1 = s.notesFrom1 := rfl
@[simp] theorem State.emitTone_voices : (s.emitTone x).voices = s.voices := rfl
@[simp] theorem State.emitTone_trace : (s.emitTone x).trace = s.trace ++ [x] := rfl
@[simp] theorem State.emitTone_commands : (s.emitTone x).commands = s.commands := rfl
@[simp] theorem State.emitTone_stepping : (s.emitTone x).stepping = s.stepping := rfl

@[simp] theorem State.issue_tracks : (s.issue p).tracks = s.tracks := rfl
@[simp] theorem State.issue_notesFrom1 : (s.issue p).notesFrom1 = s.notesFrom1 := rfl
@[simp] theorem State.issue_voices : (s.issue p).voices = s.voices := rfl
@[simp] theorem State.issue_trace : (s.issue p).trace = s.trace := rfl
@[simp] theorem State.issue_commands : (s.issue p).commands = p :: s.commands := rfl
@[simp] theorem State.issue_stepping : (s.issue p).stepping = s.stepping := rfl

@[simp] theorem Track.countdown_next : T.countdown.next = T.next := rfl
@[simp] theorem Track.countdown_wait : T.countdown.wait = T.wait - 1 := rfl
@[simp] theorem Track.countdown_ticks : T.countdown.ticks = T.ticks := rfl
@[simp] theorem Track.countdown_instrument : T.countdown.instrument = T.instrument := rfl
@[simp] theorem Track.countdown_volume : T.countdown.volume = T.volume := rfl
@[simp] theorem Track.countdown_flags : T.countdown.flags = T.flags := rfl
@[simp] theorem Track.countdown_tones : T.countdown.tones = T.tones := rfl

@[simp] theorem Track.advance_next : (T.advance w).next = T.next + 1 := rfl
@[simp] theorem Track.advance_wait : (T.advance w).wait = w := rfl
@[simp] theorem Track.advance_ticks : (T.advance w).ticks = T.ticks := rfl
@[simp] theorem Track.advance_instrument : (T.advance w).instrument = T.instrument := rfl
@[simp] theorem Track.advance_volume : (T.advance w).volume = T.volume := rfl
@[simp] theorem Track.advance_flags : (T.advance w).flags = T.flags := rfl
@[simp] theorem Track.advance_tones : (T.advance w).tones = T.tones := rfl

@[simp] theorem Track.toSlotZero_next : T.toSlotZero.next = 0 := rfl
@[simp] theorem Track.toSlotZero_wait : T.toSlotZero.wait = T.wait := rfl
@[simp] theorem Track.toSlotZero_ticks : T.toSlotZero.ticks = T.ticks := rfl
@[simp] theorem Track.toSlotZero_instrument : T.toSlotZero.instrument = T.instrument := rfl
@[simp] theorem Track.toSlotZero_volume : T.toSlotZero.volume = T.volume := rfl
@[simp] theorem Track.toSlotZero_flags : T.toSlotZero.flags = T.flags := rfl
@[simp] theorem Track.toSlotZero_tones : T.toSlotZero.tones = T.tones := rfl

@[simp] theorem Track.rewound_next : T.rewound.next = 0 := rfl
@[simp] theorem Track.rewound_wait : T.rewound.wait = 0 := rfl
@[simp] theorem Track.rewound_ticks : T.rewound.ticks = T.ticks := rfl
@[simp] theorem Track.rewound_instrument : T.rewound.instrument = T.instrument := rfl
@[simp] theorem Track.rewound_volume : T.rewound.volume = T.volume := rfl
@[simp] theorem Track.rewound_flags : T.rewound.flags = T.flags := rfl
@[simp] theorem Track.rewound_tones : T.rewound.tones = T.tones := rfl

end

end Sys2Proof.Machine
end

