-- ==== Sys2Proof/Laws/Ops.lean ====
section
/-! SUPPORT. What the shared operations can do: Track access, running on a Track, and the command stream. -/

namespace Sys2Proof.Machine

/-- A loaded Track is one of the instances. -/
theorem State.lt_of_track? {s : State} {t : Nat} {T : Track} (h : s.track? t = some T) : t < s.tracks.length := by
  rcases hx : s.tracks[t]? with _ | x
  · simp [State.track?, hx] at h
  · exact (List.getElem?_eq_some_iff.mp hx).1

/-- Track access depends on the list of Tracks alone. -/
theorem State.track?_congr {s s' : State} (h : s'.tracks = s.tracks) (t : Nat) : s'.track? t = s.track? t := by
  rw [State.track?, State.track?, h]

@[simp] theorem State.track?_emitTone (s : State) (x : Tone) (t : Nat) : (s.emitTone x).track? t = s.track? t := rfl

@[simp] theorem State.track?_addressStep (s : State) (u t : Nat) : (s.addressStep u).track? t = s.track? t := rfl

/-- Reading a Track after writing it. -/
theorem State.track?_setTrack_self (s : State) {t : Nat} (T : Track) (h : t < s.tracks.length) :
    (s.setTrack t T).track? t = some T := by
  simp [State.track?, h]

/-- Writing a Track leaves every other one alone (R25). -/
theorem State.track?_setTrack_ne (s : State) {t u : Nat} (T : Track) (h : u ≠ t) :
    (s.setTrack t T).track? u = s.track? u := by
  simp [State.track?, List.getElem?_set_ne (Ne.symm h)]

/-- Writing the same Track twice keeps the later value. -/
theorem State.setTrack_setTrack (s : State) (t : Nat) (T T' : Track) :
    (s.setTrack t T).setTrack t T' = s.setTrack t T' := by
  simp [State.setTrack]

/-- Writes to different Tracks commute. -/
theorem State.setTrack_comm (s : State) {t u : Nat} (T U : Track) (h : t ≠ u) :
    (s.setTrack t T).setTrack u U = (s.setTrack u U).setTrack t T := by
  simp [State.setTrack, List.set_comm _ _ h]

theorem State.hasTrack_iff (s : State) (t : Nat) : s.hasTrack t = true ↔ t < s.tracks.length := by
  simp [State.hasTrack]

/-- On a loaded Track, `onTrack` runs. -/
theorem State.onTrack_some {s : State} {t : Nat} {T : Track} (h : s.track? t = some T)
    (f : Track → Host.Outcome State Fault Refusal) : s.onTrack t f = f T := by
  rw [State.onTrack, h]

/-- On an unloaded Track, it refuses (R74). -/
theorem State.onTrack_none {s : State} {t : Nat} (h : s.track? t = none)
    (f : Track → Host.Outcome State Fault Refusal) : s.onTrack t f = .refused .unloadedTrack := by
  rw [State.onTrack, h]

/-- A next state comes from a loaded Track. -/
theorem State.onTrack_next {s s' : State} {t : Nat} {f : Track → Host.Outcome State Fault Refusal}
    (h : s.onTrack t f = .next s') : ∃ T, s.track? t = some T ∧ f T = .next s' := by
  rcases hT : s.track? t with _ | T
  · simp [State.onTrack_none hT] at h
  · exact ⟨T, rfl, by rwa [State.onTrack_some hT] at h⟩

/-- Taking a command removes the head of the stream and changes nothing else. -/
theorem State.takeCommand_some {s s' : State} {i : Instr} (h : s.takeCommand = some (i, s')) :
    ∃ p rest, s.commands = p :: rest ∧ i = decodeCommand p ∧ s' = { s with commands := rest } := by
  rcases hc : s.commands with _ | ⟨p, rest⟩
  · simp [State.takeCommand, hc] at h
  · simp only [State.takeCommand, hc, Option.some.injEq, Prod.mk.injEq] at h
    exact ⟨p, rest, rfl, h.1.symm, h.2.symm⟩

end Sys2Proof.Machine
end

