-- ==== Sys2Proof/Laws/Exec.lean ====
section
/-! SUPPORT. Inversion: what an instruction has done where it answers a next state. -/

namespace Sys2Proof.Machine

/-- A slot runs as the instruction it decodes to. -/
theorem runSlot_eq_exec (x : Slot) (s : State) : runSlot x s = exec (decodeSlot x) s := by
  rcases slotClass_cases x.note with ⟨h, hc⟩ | ⟨-, hc⟩ | ⟨-, hc⟩ | ⟨-, -, -, hc⟩ <;>
    simp [runSlot, decodeSlot, hc, exec]

theorem exec_note_next {n : Fin 37} {w f : Byte} {s s' : State} (h : exec (.note n w f) s = .next s') :
    ∃ T, s.track? s.stepping = some T ∧
      s' = (s.emitTone (encodeTone (s.noteParams T n w))).setTrack s.stepping (T.advance w) := by
  obtain ⟨T, hT, h⟩ := State.onTrack_next h
  exact ⟨T, hT, by simpa using h.symm⟩

theorem exec_silent_next {n w f : Byte} {s s' : State} (h : exec (.silent n w f) s = .next s') :
    ∃ T, s.track? s.stepping = some T ∧ s' = s.setTrack s.stepping (T.advance w) := by
  obtain ⟨T, hT, h⟩ := State.onTrack_next h
  exact ⟨T, hT, by simpa using h.symm⟩

theorem exec_end_next {w f : Byte} {s s' : State} (h : exec (.endMark w f) s = .next s') :
    ∃ T, s.track? s.stepping = some T ∧ s' = s.setTrack s.stepping (T.advance w).toSlotZero := by
  obtain ⟨T, hT, h⟩ := State.onTrack_next h
  exact ⟨T, hT, by simpa using h.symm⟩

theorem exec_empty_next {w f : Byte} {s s' : State} (h : exec (.empty w f) s = .next s') :
    ∃ T, s.track? s.stepping = some T ∧ s' = s.setTrack s.stepping (T.advance w) := by
  obtain ⟨T, hT, h⟩ := State.onTrack_next h
  exact ⟨T, hT, by simpa using h.symm⟩

/-- What a slot opcode has done: one write of Track `stepping`, whose cursor and countdown alone change, and for NOTE one
tone. -/
theorem runSlot_next {x : Slot} {s s' : State} (h : runSlot x s = .next s') :
    ∃ T, s.track? s.stepping = some T ∧
      ((∃ hn : x.note.toNat < 37, s' = (s.emitTone (encodeTone (s.noteParams T ⟨x.note.toNat, hn⟩ x.wait))).setTrack
          s.stepping (T.advance x.wait)) ∨
        (x.note = 0xFE#8 ∧ s' = s.setTrack s.stepping (T.advance x.wait).toSlotZero) ∨
        (37 ≤ x.note.toNat ∧ x.note ≠ 0xFE#8 ∧ s' = s.setTrack s.stepping (T.advance x.wait))) := by
  rcases slotClass_cases x.note with ⟨hn, hc⟩ | ⟨hE, hc⟩ | ⟨hF, hc⟩ | ⟨hn, hE, -, hc⟩ <;> rw [runSlot, hc] at h
  · obtain ⟨T, hT, h⟩ := exec_note_next (f := x.flags) h
    exact ⟨T, hT, .inl ⟨hn, h⟩⟩
  · obtain ⟨T, hT, h⟩ := exec_end_next (f := x.flags) h
    exact ⟨T, hT, .inr (.inl ⟨hE, h⟩)⟩
  · obtain ⟨T, hT, h⟩ := exec_empty_next (f := x.flags) h
    exact ⟨T, hT, .inr (.inr ⟨by rw [hF]; decide, by rw [hF]; decide, h⟩)⟩
  · obtain ⟨T, hT, h⟩ := exec_silent_next (n := x.note) (f := x.flags) h
    exact ⟨T, hT, .inr (.inr ⟨hn, hE, h⟩)⟩

theorem exec_step_next {t : Nat} {s s' : State} (h : exec (.step t) s = .next s') :
    ∃ T, s.track? t = some T ∧
      ((T.waiting = true ∧ s' = (s.addressStep t).setTrack t T.countdown) ∨
        (T.waiting = false ∧ runSlot (slotRead T T.next) (s.addressStep t) = .next s')) := by
  obtain ⟨T, hT, h⟩ := State.onTrack_next h
  refine ⟨T, hT, ?_⟩
  split at h
  next hw => exact .inl ⟨hw, by simpa using h.symm⟩
  next hw => exact .inr ⟨by simpa using hw, h⟩

theorem exec_reset_next {t : Nat} {s s' : State} (h : exec (.reset t) s = .next s') :
    ∃ T, s.track? t = some T ∧ s' = s.setTrack t T.rewound := by
  obtain ⟨T, hT, h⟩ := State.onTrack_next h
  exact ⟨T, hT, by simpa using h.symm⟩

theorem exec_load_next {t : Nat} {tb : TableOperand} {tk i v : Byte} {f : Byte × Byte} {s s' : State}
    (h : exec (.load t tb tk i v f) s = .next s') :
    t < s.tracks.length ∧ s' = s.setTrack t (loadedTrack tb tk i v f) := by
  simp only [exec, execLoad] at h
  split at h
  next ht => exact ⟨(s.hasTrack_iff t).mp ht, by simpa using h.symm⟩
  next => cases h

theorem exec_emit_next {p : ToneOperand} {s s' : State} (h : exec (.emit p) s = .next s') :
    s' = s.emitTone (encodeTone (emitParams p)) := by
  simpa [exec, execEmit] using h.symm

theorem Track.waiting_iff (T : Track) : T.waiting = true ↔ 0 < T.wait.toNat := by simp [Track.waiting]

theorem Track.waiting_of_zero {T : Track} (h : T.wait = 0) : T.waiting = false := by simp [Track.waiting, h]

/-- STEP on a WAITING Track (41_track_step.md R57). -/
theorem execStep_waiting {t : Nat} {s : State} {T : Track} (hT : s.track? t = some T) (hw : T.waiting = true) :
    execStep t s = .next ((s.addressStep t).setTrack t T.countdown) := by
  rw [execStep, State.onTrack_some hT, if_pos hw]

/-- STEP on an ADVANCING Track (R58). -/
theorem execStep_advancing {t : Nat} {s : State} {T : Track} (hT : s.track? t = some T) (hw : T.waiting = false) :
    execStep t s = runSlot (slotRead T T.next) (s.addressStep t) := by
  rw [execStep, State.onTrack_some hT, hw, if_neg (by decide)]

/-- What one step does: idle, or the next command executed on the state without it. -/
theorem step_cases {s s' : State} (h : step s = .next s') :
    (s.commands = [] ∧ s' = s) ∨
      ∃ p rest, s.commands = p :: rest ∧ exec (decodeCommand p) { s with commands := rest } = .next s' := by
  rcases hc : s.commands with _ | ⟨p, rest⟩
  · exact .inl ⟨rfl, by simpa [step, State.takeCommand, hc] using h.symm⟩
  · exact .inr ⟨p, rest, rfl, by simpa [step, State.takeCommand, hc] using h⟩

end Sys2Proof.Machine
end

