-- ==== Sys2Proof/Laws/Operands.lean ====
section
/-! SUPPORT. What the operand forms give: zero-extension, the release product, the two table lookups. -/

namespace Sys2Proof.Machine

theorem toNat_zext32 (b : Byte) : (zext32 b).toNat = b.toNat := by
  have := b.isLt
  simp only [zext32, BitVec.toNat_setWidth]
  omega

/-- The product of two bytes is at most 65025 (00_scope.md R9 (d)). -/
theorem byte_mul_le (a b : Byte) : a.toNat * b.toNat ≤ 65025 :=
  Nat.mul_le_mul (Nat.le_of_lt_succ a.isLt) (Nat.le_of_lt_succ b.isLt)

/-- The release operand is the exact product (R9 (d), D5). -/
theorem toNat_releaseOf (w k : Byte) : (releaseOf w k).toNat = w.toNat * k.toNat := by
  have := byte_mul_le w k
  simp only [releaseOf, BitVec.toNat_mul, toNat_zext32]
  omega

/-- A Track's voice is the entry of the instrument table at `instrument mod N_INSTR`, which is in range (10_state.md
R17). -/
theorem State.voiceOf_spec (s : State) (T : Track) :
    (s.voices.first :: s.voices.rest)[T.instrument.toNat % (s.voices.rest.length + 1)]? = some (s.voiceOf T) :=
  List.getElem?_eq_some_iff.mpr ⟨Nat.mod_lt _ (Nat.succ_pos _), rfl⟩

/-- NoteROM is the 37-entry table whose first entry is 130 (00_scope.md R6, R8). -/
theorem State.noteROM_spec (s : State) (n : Fin 37) :
    (130#32 :: s.notesFrom1.toList)[n.val]? = some (s.noteROM n) := by
  rcases n with ⟨_ | k, hn⟩
  · rfl
  · simp [State.noteROM, Vector.get]

end Sys2Proof.Machine
end

