-- ==== Sys2Proof/Laws/PerInstr.lean ====
section
/-! SUPPORT. Statements made per instruction: the word of a well-formed instruction belongs to exactly one row of the
opcode table, the row of its own mnemonic (30_encoding.md R40, R44). -/

namespace Sys2Proof

/-- Masking the low 16 bits away leaves what the upper bits give. -/
theorem and_shiftLeft_sixteen (w m : Nat) : w &&& (m <<< 16) = ((w >>> 16) <<< 16) &&& (m <<< 16) := by
  apply Nat.eq_of_testBit_eq
  intro i
  by_cases h : 16 ≤ i <;> simp [h]

/-- The upper byte of a slot word is the note byte (R39). -/
theorem Slot.toWord_upper (x : Slot) : x.toWord.toNat >>> 16 = x.note.toNat := by
  have hw := x.wait.isLt
  have hf := x.flags.isLt
  rw [Slot.toNat_toWord, Nat.shiftRight_eq_div_pow]
  omega

/-- The rows of a slot depend on its note byte alone (R40). -/
theorem Encoded.rows_slot (x : Slot) :
    (Encoded.slot x).rows = slotRows.filter fun r => (x.note.toNat <<< 16) &&& r.mask == r.pattern := by
  have hm : ∀ r ∈ slotRows, r.mask = (r.mask >>> 16) <<< 16 := by decide
  apply List.filter_congr
  intro r hr
  rw [OpcodeRow.covers, hm r hr, and_shiftLeft_sixteen, Slot.toWord_upper]

/-- The rows that a note byte belongs to, by mnemonic. -/
def noteRows (b : Byte) : List String :=
  (slotRows.filter fun r => (b.toNat <<< 16) &&& r.mask == r.pattern).map OpcodeRow.mnemonic

namespace Laws.OneRow

/-- Exactly one row, and the right one. -/
def Statement (i : Instr) : Prop :=
  i.wellFormed = true → (encode i).rows.map OpcodeRow.mnemonic = [i.mnemonic]

theorem note (n : Fin 37) (w f : Byte) : Statement (.note n w f) := by
  have h : ∀ n : Fin 37, noteRows (BitVec.ofNat 8 n.val) = ["NOTE"] := by decide
  intro _
  rw [encode, Encoded.rows_slot]
  exact h n

theorem silent (n w f : Byte) : Statement (.silent n w f) := by
  have h : ∀ k : Fin 254, 37 ≤ k.val → noteRows (BitVec.ofNat 8 k.val) = ["SILENT"] := by decide +kernel
  intro hw
  simp only [Instr.wellFormed, Bool.and_eq_true, decide_eq_true_eq] at hw
  rw [encode, Encoded.rows_slot]
  have hn := h ⟨n.toNat, by omega⟩ hw.1
  rw [BitVec.ofNat_toNat, BitVec.setWidth_eq] at hn
  exact hn

theorem endMark (w f : Byte) : Statement (.endMark w f) := by
  intro _
  rw [encode, Encoded.rows_slot]
  exact (by decide : noteRows 0xFE = ["END"])

theorem empty (w f : Byte) : Statement (.empty w f) := by
  intro _
  rw [encode, Encoded.rows_slot]
  exact (by decide : noteRows 0xFF = ["EMPTY"])

theorem step (t : Nat) : Statement (.step t) := fun _ => by
  exact (by decide : (commandRows.filter (·.covers 0)).map OpcodeRow.mnemonic = ["STEP"])

theorem reset (t : Nat) : Statement (.reset t) := fun _ => by
  exact (by decide : (commandRows.filter (·.covers 1)).map OpcodeRow.mnemonic = ["RESET"])

theorem load (t : Nat) (tb : TableOperand) (tk i v : Byte) (f : Byte × Byte) :
    Statement (.load t tb tk i v f) := fun _ => by
  exact (by decide : (commandRows.filter (·.covers 2)).map OpcodeRow.mnemonic = ["LOAD"])

theorem emit (p : ToneOperand) : Statement (.emit p) := fun _ => by
  exact (by decide : (commandRows.filter (·.covers 3)).map OpcodeRow.mnemonic = ["EMIT"])

end Laws.OneRow

end Sys2Proof
end

