-- ==== Sys2Proof/Laws/Run.lean ====
section
/-! SUPPORT. Runs of several steps, one command at a time. -/

namespace Sys2Proof.Machine

/-- The first command of a run: it executes on the state without it. -/
theorem steps_succ {s s' : State} {k : Nat} {p : Packet} {rest : List Packet} (hc : s.commands = p :: rest)
    (h : exec (decodeCommand p) { s with commands := rest } = .next s') : steps (k + 1) s = steps k s' := by
  have hs : step s = .next s' := by simpa [step, State.takeCommand, hc] using h
  rw [steps, hs]

/-- Writing back what a Track already holds changes nothing. -/
theorem State.set_track_self {s : State} {t : Nat} {T : Track} (h : s.track? t = some T) :
    s.tracks.set t (some T) = s.tracks := by
  have hl := State.lt_of_track? h
  rw [State.track?, Option.join_eq_some_iff, List.getElem?_eq_some_iff] at h
  obtain ⟨_, hx⟩ := h
  rw [← hx, List.set_getElem_self]

end Sys2Proof.Machine
end

