-- ==== Sys2Proof/Tests/Slice0.lean ====
section
/-! SUPPORT. Tests of one step each, expected results from spec/95_test_vectors.md (the vector is named) or written out from
the encoding rules; then, for every statement with hypotheses, a state and operands that meet them. -/

namespace Sys2Proof.Tests

open Sys2Proof.Machine

/-! ### Words (30_encoding.md R39, R40, R44; opcode_table.json) -/

/-- NOTE: both ends of its three rows. -/
theorem test_decode_note :
    decodeTableWord 24 0x000300 = some (.note 0 3 0) ∧ decodeTableWord 24 0x1F00FF = some (.note 31 0 0xFF) ∧
      decodeTableWord 24 0x200000 = some (.note 32 0 0) ∧ decodeTableWord 24 0x24FF01 = some (.note 36 0xFF 1) := by
  decide

/-- SILENT: the ends of its range, and a word of each half of the middle (program P2 has 0x250200). -/
theorem test_decode_silent :
    decodeTableWord 24 0x250200 = some (.silent 37 2 0) ∧ decodeTableWord 24 0x7F0000 = some (.silent 127 0 0) ∧
      decodeTableWord 24 0x80FF00 = some (.silent 128 0xFF 0) ∧
      decodeTableWord 24 0xFD0000 = some (.silent 253 0 0) := by decide

/-- END and EMPTY (programs P1, P4). -/
theorem test_decode_end_empty :
    decodeTableWord 24 0xFE0100 = some (.endMark 1 0) ∧ decodeTableWord 24 0xFF07AB = some (.empty 7 0xAB) := by decide

/-- The command codes, operand lines zero. -/
theorem test_decode_commands :
    decodeTableWord 8 0b00 = some (.step 0) ∧ decodeTableWord 8 0b01 = some (.reset 0) ∧
      decodeTableWord 8 0b10 = some (.load 0 (.given (Vector.replicate 32 ⟨0, 0, 0⟩)) 0 0 0 (0, 0)) ∧
      decodeTableWord 8 0b11 = some (.emit ToneParams.zero.supplied) := by decide

/-- A row width that the table does not have is refused. -/
theorem test_decode_other_width : decodeTableWord 16 0 = none := by decide

/-- WellFormed refuses the note bytes of the other classes in a SILENT, and takes both ends of its range. -/
theorem test_wellFormed_silent :
    (Instr.silent 36 0 0).wellFormed = false ∧ (Instr.silent 254 0 0).wellFormed = false ∧
      (Instr.silent 37 0 0).wellFormed = true ∧ (Instr.silent 253 0 0).wellFormed = true := by decide

/-! ### Configuration TC of 95_test_vectors.md section 2 -/

/-- A Track whose table is EMPTY but for the slot at the cursor. -/
def track (next : Fin 32) (wait ticks instrument volume : Byte) (x : Slot) : Track :=
  { next := next, wait := wait, ticks := ticks, instrument := instrument, volume := volume, flags := (1, 2),
    tones := (Vector.replicate 32 ⟨0xFF, 0, 0⟩).set next.val x next.isLt }

/-- Two instances, Track 0 loaded; the tables of TC. -/
def machine (T : Track) (commands : List Packet) : State :=
  { tracks := [some T, none], notesFrom1 := Vector.replicate 36 1000, voices := ⟨⟨0, 2⟩, [⟨2, 0⟩, ⟨3, 0⟩]⟩, trace := [],
    commands := commands, stepping := 0 }

/-- `(next, wait)` of Track 0 and the trace. -/
def view : Host.Outcome State Fault Refusal → Option (Nat × Nat × List Tone)
  | .next s => (s.track? 0).map fun T => (T.next.val, T.wait.toNat, s.trace)
  | _ => none

/-- What of Track 0 is not `next` or `wait`. -/
def controls : Host.Outcome State Fault Refusal → Option (Byte × Byte × Byte × (Byte × Byte))
  | .next s => (s.track? 0).map fun T => (T.ticks, T.instrument, T.volume, T.flags)
  | _ => none

def stepZero : Packet := { Packet.zero with cmd := 0b00 }

/-- W2: the last wait step does not read the NOTE. -/
theorem test_step_W2 : view (exec (.step 0) (machine (track 4 1 2 0 50 ⟨0, 3, 0⟩) [])) = some (4, 0, []) := by decide

/-- LD4: STEP of a Track that was not loaded is refused. -/
theorem test_step_LD4 :
    exec (.step 1) (machine (track 0 0 2 0 50 ⟨0, 3, 0⟩) []) = .refused .unloadedTrack := by rfl

/-- A2: instrument 4 reads entry 1; release 3 * 2. -/
theorem test_note_A2 : view (step (machine (track 0 0 2 4 50 ⟨0, 3, 0⟩) [stepZero])) =
    some (1, 3, [⟨0x82, 0x600, 0x32, 2⟩]) := by decide

/-- A10 with A12's cursor: the largest product, at slot 31. -/
theorem test_note_A10_A12 : view (step (machine (track 31 0 255 0 50 ⟨0, 255, 0⟩) [stepZero])) =
    some (0, 255, [⟨0x82, 0x00FE0100, 0x32, 8⟩]) := by decide

/-- S1: note 37 is silent. -/
theorem test_silent_S1 : view (step (machine (track 2 0 2 0 50 ⟨37, 9, 0⟩) [stepZero])) = some (3, 9, []) := by decide

/-- S3: note 128, at slot 31. -/
theorem test_silent_S3 : view (step (machine (track 31 0 2 0 50 ⟨128, 255, 0⟩) [stepZero])) = some (0, 255, []) := by
  decide

/-- N1: END loads its wait. -/
theorem test_end_N1 : view (step (machine (track 5 0 2 0 50 ⟨0xFE, 2, 0⟩) [stepZero])) = some (0, 2, []) := by decide

/-- Y2: EMPTY loads its wait; its flags byte is ignored. -/
theorem test_empty_Y2 : view (step (machine (track 10 0 2 0 50 ⟨0xFF, 7, 0xAB⟩) [stepZero])) = some (11, 7, []) := by
  decide

/-- RS1. -/
theorem test_reset_RS1 :
    view (exec (.reset 0) (machine (track 7 3 4 9 80 ⟨0, 3, 0⟩) [])) = some (0, 0, []) ∧
      controls (exec (.reset 0) (machine (track 7 3 4 9 80 ⟨0, 3, 0⟩) [])) = some (4, 9, 80, (1, 2)) := by decide

/-- LD3, on a Track that exists and waits: nothing is reduced or clamped. -/
theorem test_load_LD3 :
    view (exec (.load 0 .defaultTable 0 200 0 (0xFF, 1)) (machine (track 7 3 4 9 80 ⟨0, 3, 0⟩) [])) = some (0, 0, []) ∧
      controls (exec (.load 0 .defaultTable 0 200 0 (0xFF, 1)) (machine (track 7 3 4 9 80 ⟨0, 3, 0⟩) [])) =
        some (0, 200, 0, (0xFF, 1)) := by decide

/-- LD1: a given table is stored slot for slot; here the second slot. -/
theorem test_load_LD1 :
    (match exec (.load 1 (.given ((Vector.replicate 32 ⟨0xFF, 0, 0⟩).set 1 ⟨0xFE, 0, 0⟩)) 4 0 100 (0, 0))
        (machine (track 7 3 4 9 80 ⟨0, 3, 0⟩) []) with
      | .next s => (s.track? 1).map fun T => (slotRead T 1, slotRead T 31)
      | _ => none) = some (⟨0xFE, 0, 0⟩, ⟨0xFF, 0, 0⟩) := by decide

/-- An EMIT that supplies nothing. -/
def omitted : ToneOperand := ⟨none, none, none, none, none, none, none, none, none⟩

/-- E5b: sustain and release overlap by OR. -/
theorem test_emit_E5b :
    view (exec (.emit { omitted with sustain := some 0x1FF, release := some 2 })
      (machine (track 0 1 0 0 0 ⟨0, 0, 0⟩) [])) = some (0, 1, [⟨0x1F4, 0x3FF, 0x64, 0⟩]) := by decide

/-- R55's example: the omitted fields take their defaults. -/
theorem test_emit_example :
    view (exec (.emit { omitted with freq1 := some 262, freq2 := some 523 })
      (machine (track 0 1 0 0 0 ⟨0, 0, 0⟩) [])) = some (0, 1, [⟨0x020B0106, 0x1E, 0x64, 0⟩]) := by decide

/-- The first step after reset runs a NOTE placed by withFetchWord; frequency word 130 (R6). -/
theorem test_reset_runs_note :
    (match step (State.reset.withFetchWord 24 0x000300) with
      | .next s => s.trace.map Tone.frequencyBits
      | _ => []) = [130] := by decide

/-! ### Witnesses: hypotheses met together -/

/-- Track 0 waits (5 ticks to go). -/
def waitingTrack : Track := track 4 5 2 0 50 ⟨0, 3, 0⟩

/-- Track 0 advances, at a NOTE with wait byte 3. -/
def readyTrack : Track := track 31 0 2 4 50 ⟨0, 3, 0⟩

/-- Track 0 stands on an END in slot 0. -/
def loopTrack : Track := track 0 0 2 0 50 ⟨0xFE, 0, 7⟩

theorem witness_DecodeEncode : (Instr.silent 253 1 2).wellFormed = true ∧ (Instr.note 36 1 2).wellFormed = true := by
  decide

theorem witness_SlotClasses :
    (⟨36, 0, 0⟩ : Slot).note.toNat = (36 : Fin 37).val ∧ (⟨0, 0, 0⟩ : Slot).note.toNat = (0 : Fin 37).val ∧
      37 ≤ (⟨37, 0, 0⟩ : Slot).note.toNat ∧ (⟨253, 0, 0⟩ : Slot).note.toNat ≤ 253 ∧
      (⟨254, 0, 0⟩ : Slot).note.toNat = 254 ∧ (⟨255, 0, 0⟩ : Slot).note.toNat = 255 := by decide

theorem witness_CommandCodes :
    stepZero.cmd = 0b00 ∧ { Packet.zero with cmd := 0b01 }.cmd = 0b01 ∧ { Packet.zero with cmd := 0b10 }.cmd = 0b10 ∧
      { Packet.zero with cmd := 0b11 }.cmd = 0b11 := by decide

theorem witness_SlotFlagsInert :
    (machine readyTrack []).track? 0 = some readyTrack ∧
      ∀ k : Fin 32, ((track 31 0 2 4 50 ⟨0, 3, 0xAB⟩).tones.get k).note = (readyTrack.tones.get k).note ∧
        ((track 31 0 2 4 50 ⟨0, 3, 0xAB⟩).tones.get k).wait = (readyTrack.tones.get k).wait := by decide

/-- The widest fields; sustain 255 beside a release, and sustain 65535 without one. -/
theorem witness_FieldRecovery :
    let p : ToneParams := ⟨65535, 65535, 255, 255, 255, 255, 0xFFFFFFFF, 3, 3⟩
    let q : ToneParams := ⟨65535, 65535, 255, 255, 65535, 0, 0xFFFFFFFF, 3, 3⟩
    p.freq1.toNat < 2 ^ 16 ∧ p.freq2.toNat < 2 ^ 16 ∧ p.attack.toNat < 2 ^ 8 ∧ p.decay.toNat < 2 ^ 8 ∧
      p.release.toNat < 2 ^ 8 ∧ p.sustain.toNat < (if p.release = 0 then 2 ^ 16 else 2 ^ 8) ∧ p.channel.toNat < 4 ∧
      p.mode.toNat < 4 ∧ p.sustain.toNat < 2 ^ 8 ∧ q.release = 0 ∧ q.release.toNat < 2 ^ 8 ∧
      q.sustain.toNat < (if q.release = 0 then 2 ^ 16 else 2 ^ 8) := by decide

theorem witness_WordValuesInWidths :
    let p : ToneParams := ⟨65535, 65535, 255, 255, 255, 255, 0xFFFFFFFF, 3, 3⟩
    p.freq1.toNat < 2 ^ 16 ∧ p.freq2.toNat < 2 ^ 16 ∧ p.attack.toNat < 2 ^ 8 ∧ p.decay.toNat < 2 ^ 8 ∧
      p.release.toNat < 2 ^ 8 ∧ p.sustain.toNat < 2 ^ 8 ∧ p.channel.toNat < 4 ∧ p.mode.toNat < 4 := by decide

theorem witness_NoteEffect :
    (machine readyTrack []).track? (machine readyTrack []).stepping = some readyTrack ∧ readyTrack.wait = 0 := by decide

theorem witness_SilentEffect :
    (Instr.silent 37 9 0).wellFormed = true ∧
      (machine readyTrack []).track? (machine readyTrack []).stepping = some readyTrack ∧ readyTrack.wait = 0 := by
  decide

theorem witness_EmptyEffect :
    (machine readyTrack []).track? (machine readyTrack []).stepping = some readyTrack ∧ readyTrack.wait = 0 := by decide

theorem witness_EndEffect :
    (machine loopTrack []).track? (machine loopTrack []).stepping = some loopTrack ∧ loopTrack.wait = 0 := by decide

theorem witness_SlotOpcodeFrame :
    (Instr.endMark 2 0).isSlotOpcode = true ∧ ∃ s', exec (.endMark 2 0) (machine readyTrack []) = .next s' :=
  ⟨rfl, _, rfl⟩

/-- Both branches. -/
theorem witness_StepEffect :
    ((machine waitingTrack []).track? 0 = some waitingTrack ∧ 0 < waitingTrack.wait.toNat) ∧
      (machine readyTrack []).track? 0 = some readyTrack ∧ ¬0 < readyTrack.wait.toNat := by decide

theorem witness_StepRunsSlot : (machine readyTrack []).track? 0 = some readyTrack ∧ readyTrack.wait = 0 := by decide

theorem witness_WaitCountdown :
    (machine waitingTrack [stepZero, stepZero, stepZero]).track? 0 = some waitingTrack ∧ 2 ≤ waitingTrack.wait.toNat ∧
      decodeCommand stepZero = .step 0 ∧
      (machine waitingTrack [stepZero, stepZero, stepZero]).commands = List.replicate 2 stepZero ++ [stepZero] := by
  decide

/-- With j at its upper bound, the slot's wait byte 3. -/
theorem witness_SlotHold :
    (machine readyTrack (List.replicate 4 stepZero)).track? 0 = some readyTrack ∧ readyTrack.wait = 0 ∧
      3 ≤ (slotRead readyTrack readyTrack.next).wait.toNat ∧ decodeCommand stepZero = .step 0 ∧
      (machine readyTrack (List.replicate 4 stepZero)).commands = List.replicate (3 + 1) stepZero ++ [] := by decide

theorem witness_EndLoop :
    (machine loopTrack [stepZero]).track? 0 = some loopTrack ∧ loopTrack.next = 0 ∧ loopTrack.wait = 0 ∧
      slotRead loopTrack 0 = ⟨0xFE, 0, 7⟩ ∧ decodeCommand stepZero = .step 0 ∧
      (machine loopTrack [stepZero]).commands = List.replicate 1 stepZero ++ [] := by decide

theorem witness_ResetEffect :
    (machine waitingTrack []).track? 0 = some waitingTrack ∧ ∃ s', exec (.reset 0) (machine waitingTrack []) = .next s' :=
  ⟨by decide, _, rfl⟩

/-- The last instance, not loaded before. -/
theorem witness_LoadEffect : 1 < (machine readyTrack []).tracks.length := by decide

/-- The first number without an instance. -/
theorem witness_LoadNoSuchTrack : (machine readyTrack []).tracks.length ≤ 2 := by decide

def loadOne : Packet := { Packet.zero with cmd := 0b10, track := 1, table := .defaultTable, ticks := 1 }

def stepOne : Packet := { Packet.zero with cmd := 0b00, track := 1 }

theorem witness_DefaultTableSilent :
    1 < (machine readyTrack [loadOne, stepOne]).tracks.length ∧
      decodeCommand loadOne = .load 1 .defaultTable 1 0 0 (0, 0) ∧ decodeCommand stepOne = .step 1 ∧
      (machine readyTrack [loadOne, stepOne]).commands = loadOne :: List.replicate 1 stepOne ++ [] := by decide

/-- An instance that was not loaded, and a number without an instance. -/
theorem witness_UnloadedRefused :
    (machine readyTrack []).track? 1 = none ∧ (machine readyTrack []).track? 2 = none := by decide

/-- An instruction that runs, and one of each kind that does not. -/
theorem witness_ExecTotal :
    (machine readyTrack []).canRun (.step 0) = true ∧ (machine readyTrack []).canRun (.step 1) = false ∧
      (machine readyTrack []).canRun (.load 2 .defaultTable 0 0 0 (0, 0)) = false := by decide

theorem witness_StepTakesCommand : (machine readyTrack [stepZero]).commands = stepZero :: [] := by decide

theorem witness_StepRunsFetchedSlot :
    (machine readyTrack [stepZero]).commands = stepZero :: [] ∧ decodeCommand stepZero = .step 0 ∧
      (machine readyTrack [stepZero]).track? 0 = some readyTrack ∧ readyTrack.wait = 0 := by decide

theorem witness_IdleKeepsState : State.reset.commands = [] := by decide

/-- One instruction of each clause. -/
theorem witness_TraceGrows :
    (∃ s', exec (.note 36 1 0) (machine readyTrack []) = .next s') ∧
      (∃ s', exec (.emit omitted) (machine readyTrack []) = .next s') ∧
      (∃ s', exec (.step 0) (machine readyTrack []) = .next s') ∧
      (∃ s', exec (.empty 1 0) (machine readyTrack []) = .next s') ∧
      ∃ s', exec (.load 1 .defaultTable 0 0 0 (0, 0)) (machine readyTrack []) = .next s' :=
  ⟨⟨_, rfl⟩, ⟨_, rfl⟩, ⟨_, rfl⟩, ⟨_, rfl⟩, _, rfl⟩

theorem witness_ConstantTables : ∃ s', step (machine readyTrack [stepZero]) = .next s' := ⟨_, rfl⟩

theorem witness_OnlyLoadWritesTable :
    (∀ tb tk n v f, Instr.step 0 ≠ .load 0 tb tk n v f) ∧
      (∃ s', exec (.step 0) (machine readyTrack []) = .next s') ∧
      (machine readyTrack []).track? 0 = some readyTrack :=
  ⟨fun _ _ _ _ _ h => Instr.noConfusion h, ⟨_, rfl⟩, by decide⟩

theorem witness_UnloadedUntilLoad :
    (∀ tb tk n v f, Instr.step 0 ≠ .load 1 tb tk n v f) ∧
      (∃ s', exec (.step 0) (machine readyTrack []) = .next s') ∧ (machine readyTrack []).track? 1 = none :=
  ⟨fun _ _ _ _ _ h => Instr.noConfusion h, ⟨_, rfl⟩, by decide⟩

theorem witness_TrackCommandFrame :
    (Instr.reset 0).addressed = some 0 ∧ (∃ s', exec (.reset 0) (machine readyTrack []) = .next s') ∧ 1 ≠ 0 :=
  ⟨by decide, ⟨_, rfl⟩, by decide⟩

theorem witness_EmitFrame : ∃ s', exec (.emit omitted) (machine readyTrack []) = .next s' := ⟨_, rfl⟩

/-- STEP of Track 0, then LOAD of Track 1. -/
theorem witness_CommandsCommute :
    (Instr.step 0).addressed = some 0 ∧ (Instr.load 1 .defaultTable 0 0 0 (0, 0)).addressed = some 1 ∧ 0 ≠ 1 ∧
      ∃ s₁ s₂, exec (.step 0) (machine readyTrack []) = .next s₁ ∧
        exec (.load 1 .defaultTable 0 0 0 (0, 0)) s₁ = .next s₂ :=
  ⟨by decide, by decide, by decide, _, _, rfl, rfl⟩

/-- Two machines that differ in Track 1, in the trace and in `stepping`. -/
theorem witness_TrackNoninterference :
    let s := machine readyTrack []
    let s' := { s with tracks := [some readyTrack, some loopTrack], trace := [⟨1, 2, 3, 4⟩], stepping := 1 }
    (Instr.step 0).addressed = some 0 ∧ s.track? 0 = some readyTrack ∧ s'.track? 0 = some readyTrack ∧
      s'.notesFrom1 = s.notesFrom1 ∧ s'.voices = s.voices ∧ s ≠ s' := by decide

/-- A machine that has sounded one tone and is about to sound another. -/
theorem witness_StepKeepsInv :
    State.Inv { machine readyTrack [stepZero] with trace := [⟨0x82, 0x600, 0x32, 2⟩] } ∧
      ∃ s', step { machine readyTrack [stepZero] with trace := [⟨0x82, 0x600, 0x32, 2⟩] } = .next s' := by
  refine ⟨⟨by decide, ?_, ?_, ?_⟩, _, rfl⟩
  · intro p hp
    rw [List.mem_singleton.mp hp]
    decide
  · intro x hx
    rw [List.mem_singleton.mp hx]
    exact ⟨by decide, by decide, by decide⟩
  · intro _ _ x hx
    rw [List.mem_singleton.mp hx]
    exact ⟨by decide, by decide⟩

/-- The premises of R90 can be met, so the last clause of the invariant says something. -/
theorem witness_wfTables : (machine readyTrack []).wfNotes ∧ (machine readyTrack []).wfInstr := by
  unfold State.wfNotes State.wfInstr
  decide

end Sys2Proof.Tests
end

section
/-! The machine at power-on, and its invariant there (70_reset_and_hazards.md R85). -/

namespace Sys2Proof.Machine

/-- `N_TRACKS` (00_scope.md R6) is one more than the open number of further instances. -/
@[simp] theorem State.reset_tracks_length : State.reset.tracks.length = Config.extraTracks + 1 := by
  simp [State.reset]

@[simp] theorem State.reset_trace : State.reset.trace = [] := rfl
@[simp] theorem State.reset_commands : State.reset.commands = [] := rfl

theorem State.wf_iff (s : State) : s.wf = true ↔ 1 ≤ s.tracks.length := by simp [State.wf]

theorem State.tracksOnly_of_commands_nil {s : State} (hc : s.commands = []) : s.tracksOnly := by
  simp [State.tracksOnly, hc]

/-- Before the first command and the first tone, the invariant asks only that an instance exists. -/
theorem State.inv_of_nothing_issued {s : State} (hwf : s.wf = true) (hc : s.commands = []) (ht : s.trace = []) :
    s.Inv := by
  have no_tone : ∀ x, x ∉ s.trace := by simp [ht]
  exact ⟨hwf, State.tracksOnly_of_commands_nil hc, fun x hx => absurd hx (no_tone x),
    fun _ _ x hx => absurd hx (no_tone x)⟩

theorem State.reset_wf : State.reset.wf = true := by
  rw [State.wf_iff, State.reset_tracks_length]
  omega

/-- Settles O41: an instance exists for every value of `N_TRACKS` (R6); the stream and the trace are empty. -/
theorem resetInv : Obligations.ResetInv :=
  State.inv_of_nothing_issued State.reset_wf State.reset_commands State.reset_trace

end Sys2Proof.Machine
end

section
/-! What an instruction does to the one Track it writes: the Track after it and the tones it emits, as functions of that
Track and the constant tables (10_state.md R25, 41_track_step.md R56 to R63). -/

namespace Sys2Proof.Machine

/-- Several tones in order: none or one for every instruction of the block. -/
def State.emitTones (s : State) (l : List Tone) : State := { s with trace := s.trace ++ l }

@[simp] theorem State.emitTones_nil (s : State) : s.emitTones [] = s := by simp [State.emitTones]
@[simp] theorem State.emitTones_singleton (s : State) (x : Tone) : s.emitTones [x] = s.emitTone x := rfl

section
variable (s : State) (l : List Tone)

@[simp] theorem State.emitTones_tracks : (s.emitTones l).tracks = s.tracks := rfl
@[simp] theorem State.emitTones_notesFrom1 : (s.emitTones l).notesFrom1 = s.notesFrom1 := rfl
@[simp] theorem State.emitTones_voices : (s.emitTones l).voices = s.voices := rfl
@[simp] theorem State.emitTones_trace : (s.emitTones l).trace = s.trace ++ l := rfl
@[simp] theorem State.emitTones_commands : (s.emitTones l).commands = s.commands := rfl
@[simp] theorem State.emitTones_stepping : (s.emitTones l).stepping = s.stepping := rfl
@[simp] theorem State.track?_emitTones (t : Nat) : (s.emitTones l).track? t = s.track? t := rfl

end

/-- Addressing the Track that is addressed already changes nothing. -/
@[simp] theorem State.addressStep_self (s : State) : s.addressStep s.stepping = s := rfl

/-- The Track an instruction writes: a slot opcode's is the one in `stepping`, a command names its own, EMIT has none. -/
def State.target (s : State) : Instr → Option Nat
  | .note _ _ _ | .silent _ _ _ | .endMark _ _ | .empty _ _ => some s.stepping
  | .step t | .reset t | .load t _ _ _ _ _ => some t
  | .emit _ => none

theorem State.target_of_addressed (s : State) {i : Instr} {t : Nat} (h : i.addressed = some t) :
    s.target i = some t := by
  cases i with
  | step | reset | load => exact h
  | note | silent | endMark | empty | emit => cases h

/-- The Track after a slot opcode (R58, R62). -/
def Track.afterSlot (T : Track) : Instr → Track
  | .note _ w _ | .silent _ w _ | .empty w _ => T.advance w
  | .endMark w _ => (T.advance w).toSlotZero
  | _ => T

/-- The tones of a slot opcode (R60 to R63). -/
def State.slotTones (s : State) (T : Track) : Instr → List Tone
  | .note n w _ => [encodeTone (s.noteParams T n w)]
  | _ => []

/-- The Track after an instruction that writes it. -/
def Track.after (T : Track) : Instr → Track
  | .step _ => if T.waiting then T.countdown else T.afterSlot (decodeSlot (slotRead T T.next))
  | .reset _ => T.rewound
  | .load _ table ticks instrument volume flags => loadedTrack table ticks instrument volume flags
  | i => T.afterSlot i

/-- The tones of an instruction that writes Track `T`. -/
def State.tones (s : State) (T : Track) : Instr → List Tone
  | .step _ => if T.waiting then [] else s.slotTones T (decodeSlot (slotRead T T.next))
  | i => s.slotTones T i

/-- Every slot decodes to a slot opcode (30_encoding.md R40, R43). -/
theorem isSlotOpcode_decodeSlot (x : Slot) : (decodeSlot x).isSlotOpcode = true := by
  unfold decodeSlot
  cases slotClass x.note <;> rfl

/-- A slot opcode executed for a loaded Track. -/
theorem exec_slotOpcode {i : Instr} {s : State} {T : Track} (hi : i.isSlotOpcode = true)
    (hT : s.track? s.stepping = some T) :
    exec i s = .next ((s.emitTones (s.slotTones T i)).setTrack s.stepping (T.afterSlot i)) := by
  cases i with
  | note n w f => exact State.onTrack_some hT _
  | silent | endMark | empty =>
    simp only [State.slotTones, State.emitTones_nil]
    exact State.onTrack_some hT _
  | step | reset | load | emit => cases hi

/-- STEP of a loaded Track, WAITING (R57) or ADVANCING (R58). -/
theorem exec_step_loaded {s : State} {t : Nat} {T : Track} (hT : s.track? t = some T) :
    exec (.step t) s =
      .next (((s.addressStep t).emitTones (s.tones T (.step t))).setTrack t (T.after (.step t))) := by
  rcases hw : T.waiting with _ | _
  · have hslot := exec_slotOpcode (s := s.addressStep t) (isSlotOpcode_decodeSlot (slotRead T T.next)) hT
    rw [← runSlot_eq_exec, ← execStep_advancing hT hw] at hslot
    simp only [State.tones, Track.after, hw]
    exact hslot
  · simp only [State.tones, Track.after, hw, if_true, State.emitTones_nil]
    exact execStep_waiting hT hw

/-- An instruction that writes a loaded Track: all that it does is said by `State.tones` and `Track.after`, and by the
value of `stepping` it leaves. -/
theorem exec_loaded {i : Instr} {s : State} {t : Nat} {T : Track} (hi : s.target i = some t)
    (hT : s.track? t = some T) :
    ∃ k, exec i s = .next (((s.addressStep k).emitTones (s.tones T i)).setTrack t (T.after i)) := by
  cases i with
  | note | silent | endMark | empty =>
    obtain rfl : s.stepping = t := Option.some.inj hi
    exact ⟨s.stepping, exec_slotOpcode rfl hT⟩
  | step u =>
    obtain rfl : u = t := Option.some.inj hi
    exact ⟨u, exec_step_loaded hT⟩
  | reset u =>
    obtain rfl : u = t := Option.some.inj hi
    refine ⟨s.stepping, ?_⟩
    simp only [State.tones, State.slotTones, State.emitTones_nil, State.addressStep_self]
    exact State.onTrack_some hT _
  | load u =>
    obtain rfl : u = t := Option.some.inj hi
    refine ⟨s.stepping, ?_⟩
    simp only [State.tones, State.slotTones, State.emitTones_nil, State.addressStep_self]
    exact if_pos ((s.hasTrack_iff u).mpr (State.lt_of_track? hT))
  | emit => cases hi

/-- The same, of a next state that is given. -/
theorem exec_loaded_next {i : Instr} {s s' : State} {t : Nat} {T : Track} (hi : s.target i = some t)
    (hT : s.track? t = some T) (h : exec i s = .next s') :
    ∃ k, s' = ((s.addressStep k).emitTones (s.tones T i)).setTrack t (T.after i) := by
  obtain ⟨k, hk⟩ := exec_loaded hi hT
  exact ⟨k, Host.Outcome.next.inj (h.symm.trans hk)⟩

/-- The Track an instruction writes holds `Track.after` afterwards, and the trace has grown by `State.tones`. -/
theorem exec_loaded_track {i : Instr} {s : State} {t : Nat} {T : Track} (hi : s.target i = some t)
    (hT : s.track? t = some T) :
    ∃ s', exec i s = .next s' ∧ s'.track? t = some (T.after i) ∧ s'.trace = s.trace ++ s.tones T i := by
  obtain ⟨k, hk⟩ := exec_loaded hi hT
  exact ⟨_, hk, State.track?_setTrack_self _ _ (State.lt_of_track? hT), rfl⟩

end Sys2Proof.Machine
end

section
/-! What an instruction leaves unchanged (10_state.md R20, R25; 20_memory.md R34): everything but the Track it writes,
the trace and `stepping`. -/

namespace Sys2Proof.Machine

/-- From `s` to `s'` no Track but `w` has changed, nor a constant table, the stream or the number of instances. -/
structure State.FrameOff (w : Option Nat) (s s' : State) : Prop where
  track?     : ∀ u, w ≠ some u → s'.track? u = s.track? u
  notesFrom1 : s'.notesFrom1 = s.notesFrom1
  voices     : s'.voices = s.voices
  commands   : s'.commands = s.commands
  length     : s'.tracks.length = s.tracks.length

/-- Writing one Track, emitting tones and addressing a STEP stay inside the frame of that Track. -/
theorem State.frameOff_setTrack (s : State) (k t : Nat) (l : List Tone) (T : Track) :
    State.FrameOff (some t) s (((s.addressStep k).emitTones l).setTrack t T) where
  track? _ hu := State.track?_setTrack_ne _ _ fun h => hu (congrArg some h.symm)
  notesFrom1 := rfl
  voices := rfl
  commands := rfl
  length := List.length_set

theorem State.frameOff_emitTone (s : State) (x : Tone) : State.FrameOff none s (s.emitTone x) where
  track? _ _ := rfl
  notesFrom1 := rfl
  voices := rfl
  commands := rfl
  length := rfl

/-- The frame of every instruction. A LOAD may write a Track that was not loaded; every other write is of a loaded one. -/
theorem exec_frameOff {i : Instr} {s s' : State} (h : exec i s = .next s') : State.FrameOff (s.target i) s s' := by
  have of_loaded {t : Nat} {T : Track} (hi : s.target i = some t) (hT : s.track? t = some T) :
      State.FrameOff (s.target i) s s' := by
    obtain ⟨k, rfl⟩ := exec_loaded_next hi hT h
    rw [hi]
    exact s.frameOff_setTrack k t _ _
  cases i with
  | note | silent | endMark | empty | step | reset =>
    obtain ⟨T, hT, -⟩ := State.onTrack_next h
    exact of_loaded rfl hT
  | load t tb tk n v f =>
    obtain ⟨-, rfl⟩ := exec_load_next h
    have hf := s.frameOff_setTrack s.stepping t [] (loadedTrack tb tk n v f)
    rw [State.emitTones_nil] at hf
    exact hf
  | emit p =>
    obtain rfl := exec_emit_next h
    exact s.frameOff_emitTone _

/-- Settles O36: the frame of an instruction whose target is the Track it addresses. -/
theorem trackCommandFrame : Obligations.TrackCommandFrame := by
  intro i s s' t hi h
  have hf := exec_frameOff h
  rw [s.target_of_addressed hi] at hf
  exact ⟨fun u hu => hf.track? u fun htu => hu (Option.some.inj htu).symm, hf.notesFrom1, hf.voices, hf.commands,
    hf.length⟩

/-- Settles O33: an idle step changes nothing, and a command keeps the frame. -/
theorem constantTables : Obligations.ConstantTables := by
  intro s s' h
  rcases step_cases h with ⟨-, rfl⟩ | ⟨p, rest, -, h⟩
  · exact ⟨rfl, rfl, rfl⟩
  · have hf := exec_frameOff h
    exact ⟨hf.notesFrom1, hf.voices, hf.length⟩

end Sys2Proof.Machine
end

section
/-! The fields of a Track that only LOAD writes (10_state.md R15, R16, R19; 20_memory.md R37). -/

namespace Sys2Proof.Machine

/-- `T'` is `T` but for the cursor and the countdown. -/
def Track.SameControl (T T' : Track) : Prop :=
  T'.ticks = T.ticks ∧ T'.instrument = T.instrument ∧ T'.volume = T.volume ∧ T'.flags = T.flags ∧
    ∀ k : Fin 32, slotRead T' k = slotRead T k

theorem Track.sameControl_of_eq {T T' : Track} {c : Fin 32} {w : Byte} (h : T' = { T with next := c, wait := w }) :
    T.SameControl T' := by
  subst h
  exact ⟨rfl, rfl, rfl, rfl, fun _ => rfl⟩

theorem Track.sameControl_afterSlot (T : Track) (i : Instr) : T.SameControl (T.afterSlot i) := by
  cases i <;> exact Track.sameControl_of_eq rfl

/-- STEP, RESET and the slot opcodes write the cursor and the countdown alone. -/
theorem Track.sameControl_after (T : Track) {i : Instr} (hi : ∀ t tb tk n v f, i ≠ .load t tb tk n v f) :
    T.SameControl (T.after i) := by
  cases i with
  | step =>
    rw [Track.after]
    split
    · exact Track.sameControl_of_eq rfl
    · exact T.sameControl_afterSlot _
  | reset => exact Track.sameControl_of_eq rfl
  | load => exact (hi _ _ _ _ _ _ rfl).elim
  | note | silent | endMark | empty | emit => exact T.sameControl_afterSlot _

/-- Settles O34: the Track an instruction writes keeps its control fields, and the frame keeps every other Track. -/
theorem onlyLoadWritesTable : Obligations.OnlyLoadWritesTable := by
  intro i s s' t T hi h hT
  by_cases ht : s.target i = some t
  · obtain ⟨u, hu, hafter, -⟩ := exec_loaded_track ht hT
    obtain rfl := Host.Outcome.next.inj (h.symm.trans hu)
    refine ⟨_, hafter, T.sameControl_after ?_⟩
    rintro t' tb tk n v f rfl
    obtain rfl : t' = t := Option.some.inj ht
    exact hi tb tk n v f rfl
  · exact ⟨T, ((exec_frameOff h).track? t ht).trans hT, rfl, rfl, rfl, rfl, fun _ => rfl⟩

end Sys2Proof.Machine
end

section
/-! What an instruction reads (10_state.md R22, R25; 60_exceptions.md R78): its own Track and the constant tables, and of a
command never the old value of `stepping`. -/

namespace Sys2Proof.Machine

theorem State.noteROM_congr {s s' : State} (hn : s'.notesFrom1 = s.notesFrom1) (n : Fin 37) :
    s'.noteROM n = s.noteROM n := by
  rw [State.noteROM, State.noteROM, hn]

theorem State.voiceOf_congr {s s' : State} (hv : s'.voices = s.voices) (T : Track) : s'.voiceOf T = s.voiceOf T := by
  rw [State.voiceOf, State.voiceOf, hv]

theorem State.noteParams_congr {s s' : State} (hn : s'.notesFrom1 = s.notesFrom1) (hv : s'.voices = s.voices)
    (T : Track) (n : Fin 37) (w : Byte) : s'.noteParams T n w = s.noteParams T n w := by
  rw [State.noteParams, State.noteParams, State.noteROM_congr hn, State.voiceOf_congr hv]

theorem State.slotTones_congr {s s' : State} (hn : s'.notesFrom1 = s.notesFrom1) (hv : s'.voices = s.voices)
    (T : Track) (i : Instr) : s'.slotTones T i = s.slotTones T i := by
  cases i with
  | note n w => rw [State.slotTones, State.slotTones, State.noteParams_congr hn hv]
  | _ => rfl

/-- The tones depend on the Track and the constant tables alone. -/
theorem State.tones_congr {s s' : State} (hn : s'.notesFrom1 = s.notesFrom1) (hv : s'.voices = s.voices)
    (T : Track) (i : Instr) : s'.tones T i = s.tones T i := by
  cases i <;> simp only [State.tones, State.slotTones_congr hn hv]

/-- Settles O39: both runs leave `T.after i`, and the tones of `T` are the same on equal constant tables. -/
theorem trackNoninterference : Obligations.TrackNoninterference := by
  intro i s s' t T hi hT hT' hn hv
  obtain ⟨u, hu, hUt, htrace⟩ := exec_loaded_track (s.target_of_addressed hi) hT
  obtain ⟨u', hu', hUt', htrace'⟩ := exec_loaded_track (s'.target_of_addressed hi) hT'
  rw [State.tones_congr hn hv] at htrace'
  exact ⟨u, u', T.after i, s.tones T i, hu, hu', hUt, hUt', htrace, htrace'⟩

/-- The same refusal, or next states that differ at most in `stepping`. -/
def SameButStepping : Host.Outcome State Fault Refusal → Host.Outcome State Fault Refusal → Prop
  | .next a, .next b => a.forgetStepping = b.forgetStepping
  | .refused a, .refused b => a = b
  | _, _ => False

theorem sameButStepping_refl (o : Host.Outcome State Fault Refusal) : SameButStepping o o := by
  cases o with
  | next | refused => rfl
  | fault r => cases r

theorem sameButStepping_onTrack {s : State} {k t : Nat} {f g : Track → Host.Outcome State Fault Refusal}
    (h : ∀ T, SameButStepping (f T) (g T)) : SameButStepping (s.onTrack t f) ((s.addressStep k).onTrack t g) := by
  have hk := s.track?_addressStep k t
  rcases hT : s.track? t with _ | T
  · rw [State.onTrack_none hT, State.onTrack_none (hk.trans hT)]
    rfl
  · rw [State.onTrack_some hT, State.onTrack_some (hk.trans hT)]
    exact h T

@[simp] theorem State.hasTrack_addressStep (s : State) (k t : Nat) : (s.addressStep k).hasTrack t = s.hasTrack t := rfl

/-- Every packet is a command, not a slot opcode (30_encoding.md R44). -/
theorem isSlotOpcode_decodeCommand (p : Packet) : (decodeCommand p).isSlotOpcode = false := by
  unfold decodeCommand
  split <;> rfl

/-- STEP sets `stepping` before anything reads it. -/
theorem exec_step_addressStep (s : State) (k t : Nat) : exec (.step t) (s.addressStep k) = exec (.step t) s := rfl

/-- The other commands carry the value of `stepping` along. -/
theorem exec_sameButStepping {i : Instr} (hi : i.isSlotOpcode = false) (s : State) (k : Nat) :
    SameButStepping (exec i s) (exec i (s.addressStep k)) := by
  cases i with
  | note | silent | endMark | empty => cases hi
  | step t =>
    rw [exec_step_addressStep]
    exact sameButStepping_refl _
  | reset t => exact sameButStepping_onTrack fun _ => rfl
  | load t =>
    rcases hb : s.hasTrack t with _ | _ <;> simp only [exec, execLoad, State.hasTrack_addressStep, hb] <;> rfl
  | emit => rfl

theorem step_of_commands_nil {s : State} (hc : s.commands = []) : step s = .next s := by
  rw [step, State.takeCommand, hc]

theorem step_of_commands_cons {s : State} {p : Packet} {rest : List Packet} (hc : s.commands = p :: rest) :
    step s = exec (decodeCommand p) { s with commands := rest } := by
  rw [step, State.takeCommand, hc]

/-- Settles O40: a step runs a command, and no command observes `stepping`. -/
theorem steppingUnobserved : Obligations.SteppingUnobserved := by
  intro s k
  change SameButStepping (step s) (step (s.addressStep k))
  have hk := s.addressStep_commands k
  rcases hc : s.commands with _ | ⟨p, rest⟩
  · rw [step_of_commands_nil hc, step_of_commands_nil (hk.trans hc)]
    rfl
  · rw [step_of_commands_cons hc, step_of_commands_cons (hk.trans hc)]
    exact exec_sameButStepping (isSlotOpcode_decodeCommand p) { s with commands := rest } k

end Sys2Proof.Machine
end

section
/-! Commands to different Tracks (20_memory.md R34): what one does to its Track is the same before and after the other,
and the two writes commute. -/

namespace Sys2Proof.Machine

theorem State.FrameOff.refl (w : Option Nat) (s : State) : State.FrameOff w s s where
  track? _ _ := rfl
  notesFrom1 := rfl
  voices := rfl
  commands := rfl
  length := rfl

theorem State.FrameOff.symm {w : Option Nat} {s r : State} (h : State.FrameOff w s r) : State.FrameOff w r s where
  track? u hu := (h.track? u hu).symm
  notesFrom1 := h.notesFrom1.symm
  voices := h.voices.symm
  commands := h.commands.symm
  length := h.length.symm

/-- On `s`, instruction `i` appends the tones `l`, writes `T` to Track `t`, and changes nothing else but `stepping`. -/
def RunsAs (i : Instr) (t : Nat) (l : List Tone) (T : Track) (s : State) : Prop :=
  ∃ k, exec i s = .next (((s.addressStep k).emitTones l).setTrack t T)

/-- A LOAD of an instance that exists, loaded or not (42_track_control.md R65). -/
theorem load_runsAs {s : State} {t : Nat} (ht : t < s.tracks.length) (tb : TableOperand) (tk n v : Byte)
    (f : Byte × Byte) : RunsAs (.load t tb tk n v f) t [] (loadedTrack tb tk n v f) s := by
  refine ⟨s.stepping, ?_⟩
  rw [State.addressStep_self, State.emitTones_nil]
  exact if_pos ((s.hasTrack_iff t).mpr ht)

/-- A command to a loaded Track does the same on every state that keeps this Track and the tables (10_state.md R25). -/
theorem runsAs_of_loaded {i : Instr} {t : Nat} {T : Track} {w : Option Nat} {s r : State} (hi : i.addressed = some t)
    (hT : s.track? t = some T) (hw : w ≠ some t) (hr : State.FrameOff w s r) :
    RunsAs i t (s.tones T i) (T.after i) r := by
  rw [← State.tones_congr hr.notesFrom1 hr.voices]
  exact exec_loaded (r.target_of_addressed hi) ((hr.track? t hw).trans hT)

/-- The same of every command that runs, a LOAD of a Track that was not loaded included. -/
theorem runsAs_of_exec_next {i : Instr} {t : Nat} {s s' : State} (hi : i.addressed = some t)
    (h : exec i s = .next s') :
    ∃ l T, ∀ w r, w ≠ some t → State.FrameOff w s r → RunsAs i t l T r := by
  cases i with
  | note | silent | endMark | empty | emit => cases hi
  | step | reset =>
    obtain rfl := Option.some.inj hi
    obtain ⟨T, hT, -⟩ := State.onTrack_next h
    exact ⟨_, _, fun _ _ => runsAs_of_loaded hi hT⟩
  | load u tb tk n v f =>
    obtain rfl : u = t := Option.some.inj hi
    obtain ⟨hu, -⟩ := exec_load_next h
    exact ⟨[], _, fun _ _ _ hr => load_runsAs (hr.length.symm ▸ hu) tb tk n v f⟩

/-- Settles O38: `j` does on `s` what it did after `i`, `i` does after `j` what it did on `s`, and writes of different
Tracks commute. -/
theorem commandsCommute : Obligations.CommandsCommute := by
  intro i j t u s s₁ s₂ hi hj htu h₁ h₂
  have htu' : some t ≠ some u := fun h => htu (Option.some.inj h)
  obtain ⟨li, Ti, runs_i⟩ := runsAs_of_exec_next hi h₁
  obtain ⟨lj, Uj, runs_j⟩ := runsAs_of_exec_next hj h₂
  obtain ⟨k₁, hk₁⟩ := runs_i none s nofun (.refl none s)
  obtain rfl := Host.Outcome.next.inj (h₁.symm.trans hk₁)
  obtain ⟨k₂, hk₂⟩ := runs_j none _ nofun (.refl none _)
  obtain rfl := Host.Outcome.next.inj (h₂.symm.trans hk₂)
  obtain ⟨m₁, hm₁⟩ := runs_j (some t) s htu' (s.frameOff_setTrack k₁ t li Ti).symm
  obtain ⟨m₂, hm₂⟩ := runs_i (some u) _ htu'.symm (s.frameOff_setTrack m₁ u lj Uj)
  refine ⟨_, _, li, lj, hm₁, hm₂, ?_, rfl, rfl, List.append_assoc .., List.append_assoc ..⟩
  exact List.set_comm _ _ htu.symm

/-- Settles O29: `takeCommand` hands `exec` the head of the stream. -/
theorem stepTakesCommand : Obligations.StepTakesCommand :=
  fun _ _ _ hc => step_of_commands_cons hc

end Sys2Proof.Machine
end

section
/-! Slots and commands, encoded and decoded (30_encoding.md R38 to R44): the decoder on each opcode class and on each
command code, the slot word's fields, and the two round trips. -/

namespace Sys2Proof

/-- NOTE's bytes are 0 to 36 (R40). -/
theorem decodeSlot_of_note {x : Slot} {n : Fin 37} (h : x.note.toNat = n.val) :
    decodeSlot x = .note n x.wait x.flags := by
  have hc : slotClass x.note = .note n := by simp [slotClass, h]
  rw [decodeSlot, hc]

/-- SILENT's bytes are 37 to 253 (R40). -/
theorem decodeSlot_of_silent {x : Slot} (hlo : 37 ≤ x.note.toNat) (hhi : x.note.toNat ≤ 253) :
    decodeSlot x = .silent x.note x.wait x.flags := by
  rcases slotClass_cases x.note with ⟨h, -⟩ | ⟨h, -⟩ | ⟨h, -⟩ | ⟨-, -, -, hc⟩
  · omega
  · exact absurd hhi (by rw [h]; decide)
  · exact absurd hhi (by rw [h]; decide)
  · rw [decodeSlot, hc]

theorem decodeSlot_of_end {x : Slot} (h : x.note = opcodeEnd) : decodeSlot x = .endMark x.wait x.flags := by
  have hc : slotClass opcodeEnd = .endMark := by decide
  rw [decodeSlot, h, hc]

theorem decodeSlot_of_empty {x : Slot} (h : x.note = opcodeEmpty) : decodeSlot x = .empty x.wait x.flags := by
  have hc : slotClass opcodeEmpty = .empty := by decide
  rw [decodeSlot, h, hc]

section
variable {p : Packet}

theorem decodeCommand_of_step (h : p.cmd = 0b00) : decodeCommand p = .step p.track := by
  rw [decodeCommand, h]; rfl

theorem decodeCommand_of_reset (h : p.cmd = 0b01) : decodeCommand p = .reset p.track := by
  rw [decodeCommand, h]; rfl

theorem decodeCommand_of_load (h : p.cmd = 0b10) :
    decodeCommand p = .load p.track p.table p.ticks p.instrument p.volume p.flags := by
  rw [decodeCommand, h]; rfl

theorem decodeCommand_of_emit (h : p.cmd = 0b11) : decodeCommand p = .emit p.params := by
  rw [decodeCommand, h]; rfl

end

/-- Settles O1: a slot opcode's note byte is in its own class, which the decoder answers; a command's code is a literal,
on which the decoder computes. -/
theorem decodeEncode : Obligations.DecodeEncode := by
  intro i hi
  cases i with
  | note n w f =>
    have hn : (BitVec.ofNat 8 n.val).toNat = n.val := Nat.mod_eq_of_lt (by omega)
    exact decodeSlot_of_note (x := ⟨BitVec.ofNat 8 n.val, w, f⟩) hn
  | silent n w f =>
    simp only [Instr.wellFormed, Bool.and_eq_true, decide_eq_true_eq] at hi
    obtain ⟨hlo, hhi⟩ := hi
    exact decodeSlot_of_silent (x := ⟨n, w, f⟩) hlo hhi
  | endMark w f => exact decodeSlot_of_end (x := ⟨opcodeEnd, w, f⟩) rfl
  | empty w f => exact decodeSlot_of_empty (x := ⟨opcodeEmpty, w, f⟩) rfl
  | step | reset | load | emit => rfl

/-- Settles O2, by the four classes of the note byte. -/
theorem encodeDecodeSlot : Obligations.EncodeDecodeSlot := by
  rintro ⟨b, w, f⟩
  rcases slotClass_cases b with ⟨h, hc⟩ | ⟨rfl, hc⟩ | ⟨rfl, hc⟩ | ⟨hlo, hE, hF, hc⟩ <;>
    simp only [decodeSlot, hc]
  · exact ⟨rfl, by simp [encode]⟩
  · exact ⟨rfl, rfl⟩
  · exact ⟨rfl, rfl⟩
  · have hhi : b.toNat ≤ 253 := by bv_omega
    exact ⟨by simp [Instr.wellFormed, hlo, hhi], rfl⟩

/-- Splitting a slot word and putting its fields together gives it back (R39). -/
theorem Slot.toWord_ofWord (S : BitVec 24) : (Slot.ofWord S).toWord = S := by
  apply BitVec.eq_of_toNat_eq
  simp only [Slot.toNat_toWord, Slot.ofWord, BitVec.extractLsb'_toNat, Nat.shiftRight_eq_div_pow]
  omega

/-- Settles O3: each field is a slice of the word's bits, and the slices cover it. -/
theorem slotWordFields : Obligations.SlotWordFields := by
  intro S
  refine ⟨?_, ?_, ?_, Slot.toWord_ofWord S⟩ <;>
    simp only [Slot.ofWord, BitVec.extractLsb'_toNat, Nat.shiftRight_eq_div_pow] <;> omega

/-- Settles O4: the decoder on each class. -/
theorem slotClasses : Obligations.SlotClasses := by
  intro x n
  exact ⟨decodeSlot_of_note, decodeSlot_of_silent, fun h => decodeSlot_of_end (BitVec.eq_of_toNat_eq h),
    fun h => decodeSlot_of_empty (BitVec.eq_of_toNat_eq h)⟩

/-- Settles O5: the decoder on each command code. -/
theorem commandCodes : Obligations.CommandCodes := fun _ =>
  ⟨decodeCommand_of_step, decodeCommand_of_reset, decodeCommand_of_load, decodeCommand_of_emit⟩

/-- Settles O6, by evaluating the decoder on the eight words. -/
theorem sampleWords : Obligations.SampleWords := by
  unfold Obligations.SampleWords
  decide

end Sys2Proof
end

section
/-! The flags bytes of a Track's slots (30_encoding.md R42): no opcode reads them. -/

namespace Sys2Proof.Machine

/-- The Track with another note table. -/
def Track.withTones (T : Track) (v : Vector Slot 32) : Track := { T with tones := v }

@[simp] theorem Track.waiting_withTones (T : Track) (v : Vector Slot 32) : (T.withTones v).waiting = T.waiting := rfl

theorem Track.countdown_withTones (T : Track) (v : Vector Slot 32) :
    (T.withTones v).countdown = T.countdown.withTones v := rfl

/-- Once its slot is read, a slot opcode only carries the note table along. -/
theorem Track.afterSlot_withTones (T : Track) (v : Vector Slot 32) (i : Instr) :
    (T.withTones v).afterSlot i = (T.afterSlot i).withTones v := by
  cases i <;> rfl

theorem State.slotTones_withTones (s : State) (T : Track) (v : Vector Slot 32) (i : Instr) :
    s.slotTones (T.withTones v) i = s.slotTones T i := by
  cases i <;> rfl

section
variable {x y : Slot} (hnote : y.note = x.note) (hwait : y.wait = x.wait)
include hnote hwait

/-- Slots that differ only in `flags` leave the same Track. -/
theorem Track.afterSlot_flags_inert (T : Track) : T.afterSlot (decodeSlot y) = T.afterSlot (decodeSlot x) := by
  rw [decodeSlot, decodeSlot, hnote, hwait]
  cases slotClass x.note <;> rfl

/-- Slots that differ only in `flags` emit the same tones. -/
theorem State.slotTones_flags_inert (s : State) (T : Track) :
    s.slotTones T (decodeSlot y) = s.slotTones T (decodeSlot x) := by
  rw [decodeSlot, decodeSlot, hnote, hwait]
  cases slotClass x.note <;> rfl

end

section
variable {T : Track} {v : Vector Slot 32}
  (hv : ∀ k : Fin 32, (v.get k).note = (T.tones.get k).note ∧ (v.get k).wait = (T.tones.get k).wait)
include hv

/-- A STEP leaves the same Track but for the flags bytes. -/
theorem Track.after_step_flags_inert (t : Nat) :
    (T.withTones v).after (.step t) = (T.after (.step t)).withTones v := by
  obtain ⟨hnote, hwait⟩ := hv T.next
  cases hw : T.waiting with
  | true => simp only [Track.after, Track.waiting_withTones, hw, if_true, Track.countdown_withTones]
  | false =>
    simp only [Track.after, Track.waiting_withTones, hw, Bool.false_eq_true, if_false, Track.afterSlot_withTones]
    exact congrArg (·.withTones v) (T.afterSlot_flags_inert hnote hwait)

/-- A STEP emits the same tones. -/
theorem State.tones_step_flags_inert (s : State) (t : Nat) :
    s.tones (T.withTones v) (.step t) = s.tones T (.step t) := by
  obtain ⟨hnote, hwait⟩ := hv T.next
  cases hw : T.waiting with
  | true => simp only [State.tones, Track.waiting_withTones, hw, if_true]
  | false =>
    simp only [State.tones, Track.waiting_withTones, hw, Bool.false_eq_true, if_false, State.slotTones_withTones]
    exact s.slotTones_flags_inert hnote hwait T

end

/-- Settles O7: a STEP's tones and the Track after it, on the Track as it is and with the other note table. -/
theorem slotFlagsInert : Obligations.SlotFlagsInert := by
  intro s t T v hT hv
  obtain ⟨u, hu, hUt, htrace⟩ := exec_loaded_track (i := .step t) rfl hT
  have hT' := s.track?_setTrack_self (T.withTones v) (State.lt_of_track? hT)
  obtain ⟨u', hu', hUt', htrace'⟩ := exec_loaded_track (i := .step t) rfl hT'
  rw [Track.after_step_flags_inert hv] at hUt'
  have htones : (s.setTrack t (T.withTones v)).tones (T.withTones v) (.step t) = s.tones T (.step t) :=
    (State.tones_congr rfl rfl _ _).trans (s.tones_step_flags_inert hv t)
  rw [htones] at htrace'
  exact ⟨u, u', T.after (.step t), hu, hu', htrace'.trans htrace.symm, hUt, hUt'⟩

end Sys2Proof.Machine
end

section
/-! The Tone Encoder's words as numbers, for fields within their widths (30_encoding.md R47 to R50): no shift loses a
bit and no two fields overlap. -/

namespace Sys2Proof

/-- A shift that pushes no bit out of the word is a multiplication. -/
theorem toNat_shiftLeft_of_lt {a : Word} {n : Nat} (h : a.toNat * 2 ^ n < 2 ^ 32) :
    (a <<< n).toNat = a.toNat * 2 ^ n := by
  rw [← ofNat_mul_two_pow, BitVec.toNat_ofNat, Nat.mod_eq_of_lt h]

/-- A field above another one that does not reach its place. -/
theorem toNat_or_shiftLeft {a b : Word} {n : Nat} (ha : a.toNat * 2 ^ n < 2 ^ 32) (hb : b.toNat < 2 ^ n) :
    (b ||| a <<< n).toNat = a.toNat * 2 ^ n + b.toNat := by
  rw [BitVec.toNat_or, toNat_shiftLeft_of_lt ha, Nat.or_comm, or_eq_add_of_lt _ hb]

end Sys2Proof

namespace Sys2Proof.Machine

/-- R47. -/
theorem toNat_frequencyBits {p : ToneParams} (h1 : p.freq1.toNat < 2 ^ 16) (h2 : p.freq2.toNat < 2 ^ 16) :
    (encodeTone p).frequencyBits.toNat = p.freq2.toNat * 2 ^ 16 + p.freq1.toNat :=
  toNat_or_shiftLeft (by omega) h1

/-- R48: from the bottom up, each field lies below the place of the next. -/
theorem toNat_envelopeBits {p : ToneParams} (ha : p.attack.toNat < 2 ^ 8) (hd : p.decay.toNat < 2 ^ 8)
    (hr : p.release.toNat < 2 ^ 8) (hs : p.sustain.toNat < 2 ^ 8) :
    (encodeTone p).envelopeBits.toNat =
      p.attack.toNat * 2 ^ 24 + p.decay.toNat * 2 ^ 16 + p.release.toNat * 2 ^ 8 + p.sustain.toNat := by
  have order (a d s r : Word) : a ||| d ||| s ||| r = ((s ||| r) ||| d) ||| a := by
    ac_rfl
  have low := toNat_or_shiftLeft (a := p.release) (n := 8) (by omega) hs
  have mid := toNat_or_shiftLeft (a := p.decay) (b := p.sustain ||| p.release <<< 8) (n := 16) (by omega) (by omega)
  rw [encodeTone, order, toNat_or_shiftLeft (by omega) (by omega), mid, low]
  omega

/-- R50. -/
theorem toNat_channelModeBits {p : ToneParams} (hc : p.channel.toNat < 4) (hm : p.mode.toNat < 4) :
    (encodeTone p).channelModeBits.toNat = p.mode.toNat * 4 + p.channel.toNat :=
  toNat_or_shiftLeft (n := 2) (by omega) hc

/-- Settles O10, word by word. -/
theorem wordValuesInWidths : Obligations.WordValuesInWidths := by
  intro p h1 h2 ha hd hr hs hc hm
  have hcm := toNat_channelModeBits hc hm
  exact ⟨toNat_frequencyBits h1 h2, toNat_envelopeBits ha hd hr hs, rfl, hcm, by omega⟩

end Sys2Proof.Machine
end

section
/-! The Tone Encoder's output (40_tone_encoder.md): EMIT's effect and frame, and the fields read back from the words. -/

namespace Sys2Proof

/-- A value that stands in a word at a place is read back from the word's bits there. -/
theorem eq_setWidth_extractLsb' {a w : Word} {start len : Nat} (h : a.toNat = w.toNat / 2 ^ start % 2 ^ len) :
    a = (w.extractLsb' start len).setWidth 32 := by
  apply BitVec.eq_of_toNat_eq
  rw [BitVec.toNat_setWidth, BitVec.extractLsb'_toNat, Nat.shiftRight_eq_div_pow, ← h, Nat.mod_eq_of_lt a.isLt]

end Sys2Proof

namespace Sys2Proof.Machine

section
variable {p : ToneParams} (ha : p.attack.toNat < 2 ^ 8) (hd : p.decay.toNat < 2 ^ 8)
include ha hd

/-- R48 with release 0: sustain has the low 16 bits to itself. -/
theorem toNat_envelopeBits_of_release_zero (hr : p.release = 0) (hs : p.sustain.toNat < 2 ^ 16) :
    (encodeTone p).envelopeBits.toNat = p.attack.toNat * 2 ^ 24 + p.decay.toNat * 2 ^ 16 + p.sustain.toNat := by
  have hr0 : p.release <<< 8 = 0#32 := by rw [hr]; rfl
  have order (a d s : Word) : a ||| d ||| s = (s ||| d) ||| a := by
    ac_rfl
  have low := toNat_or_shiftLeft (a := p.decay) (n := 16) (by omega) hs
  rw [encodeTone, hr0, BitVec.or_zero, order, toNat_or_shiftLeft (by omega) (by omega), low]
  omega

/-- Under R54's condition attack and decay stand above a low half that holds sustain alone, or sustain below release. -/
theorem exists_envelopeBits_low (hr : p.release.toNat < 2 ^ 8)
    (hs : p.sustain.toNat < (if p.release = 0 then 2 ^ 16 else 2 ^ 8)) :
    ∃ low < 2 ^ 16,
      (encodeTone p).envelopeBits.toNat = p.attack.toNat * 2 ^ 24 + p.decay.toNat * 2 ^ 16 + low ∧
        (p.sustain.toNat < 2 ^ 8 → low = p.release.toNat * 2 ^ 8 + p.sustain.toNat) ∧
        (p.release = 0 → low = p.sustain.toNat) := by
  by_cases h0 : p.release = 0
  · rw [if_pos h0] at hs
    exact ⟨p.sustain.toNat, hs, toNat_envelopeBits_of_release_zero ha hd h0 hs, fun _ => by simp [h0], fun _ => rfl⟩
  · rw [if_neg h0] at hs
    have henv := toNat_envelopeBits ha hd hr hs
    exact ⟨p.release.toNat * 2 ^ 8 + p.sustain.toNat, by omega, henv.trans (Nat.add_assoc _ _ _), fun _ => rfl,
      fun h => absurd h h0⟩

end

/-- Settles O9: each field is its word's value divided down to the field's place and cut to its width; for sustain and
release, the envelope word's low half is what R54's condition on sustain makes of it. -/
theorem fieldRecovery : Obligations.FieldRecovery := by
  intro p h1 h2 ha hd hr hs hc hm
  have hfreq := toNat_frequencyBits h1 h2
  have hcm := toNat_channelModeBits hc hm
  obtain ⟨low, hlow, henv, hboth, halone⟩ := exists_envelopeBits_low ha hd hr hs
  refine ⟨eq_setWidth_extractLsb' (by omega), eq_setWidth_extractLsb' (by omega), eq_setWidth_extractLsb' (by omega),
    eq_setWidth_extractLsb' (by omega), fun hs8 => ?release, fun hs8 => ?sustain, fun hr0 => ?sustainAlone, rfl,
    eq_setWidth_extractLsb' (by omega), eq_setWidth_extractLsb' (by omega)⟩
  case release | sustain =>
    have := hboth hs8
    exact eq_setWidth_extractLsb' (by omega)
  case sustainAlone =>
    have := halone hr0
    exact eq_setWidth_extractLsb' (by omega)

/-- Settles O11: beside release 1, bit 8 of sustain changes no word. -/
theorem unconditionedRecoveryFails : Obligations.UnconditionedRecoveryFails :=
  ⟨{ ToneParams.zero with release := 1, sustain := 0x100 }, { ToneParams.zero with release := 1 }, by decide⟩

/-- Settles O8: EMIT's code, and its next state with the encoder's shifts read as multiplications modulo 2^32. -/
theorem emitEffect : Obligations.EmitEffect := by
  refine ⟨fun _ => decodeCommand_of_emit, fun _ _ => ?_⟩
  simp only [ofNat_mul_two_pow]
  rfl

/-- Settles O37, from the state that EMIT answers. -/
theorem emitFrame : Obligations.EmitFrame := by
  intro p s s' h
  obtain rfl := exec_emit_next h
  exact ⟨rfl, rfl, rfl, rfl, rfl⟩

end Sys2Proof.Machine
end

section
/-! The tone of a NOTE (41_track_step.md R60): its four words as the encoder gives them, and the release product in the
envelope word (R88). -/

namespace Sys2Proof.Machine

section
variable (s : State) (T : Track) (n : Fin 37) (w : Byte)

/-- With attack, decay and sustain 0 the envelope word is the release product alone, one byte up. -/
theorem envelopeBits_noteParams :
    (encodeTone (s.noteParams T n w)).envelopeBits = releaseOf w T.ticks <<< 8 := by
  simp [encodeTone, State.noteParams]

theorem toNat_envelopeBits_noteParams :
    (encodeTone (s.noteParams T n w)).envelopeBits.toNat = w.toNat * T.ticks.toNat * 2 ^ 8 := by
  have hle := byte_mul_le w T.ticks
  rw [envelopeBits_noteParams, toNat_shiftLeft_of_lt, toNat_releaseOf]
  rw [toNat_releaseOf]
  omega

/-- The tone of R60, its fields written as numbers. -/
theorem encodeTone_noteParams : encodeTone (s.noteParams T n w) =
    { frequencyBits := s.noteROM n
      envelopeBits := BitVec.ofNat 32 (w.toNat * T.ticks.toNat * 2 ^ 8)
      volume := BitVec.ofNat 32 T.volume.toNat
      channelModeBits := (s.voiceOf T).channel ||| BitVec.ofNat 32 ((s.voiceOf T).mode.toNat * 2 ^ 2) } := by
  have henv : (encodeTone (s.noteParams T n w)).envelopeBits = BitVec.ofNat 32 (w.toNat * T.ticks.toNat * 2 ^ 8) := by
    rw [← toNat_envelopeBits_noteParams s T n w, BitVec.ofNat_toNat, BitVec.setWidth_eq]
  have hfreq : (encodeTone (s.noteParams T n w)).frequencyBits = s.noteROM n := by
    simp [encodeTone, State.noteParams]
  have hvol : zext32 T.volume = BitVec.ofNat 32 T.volume.toNat := BitVec.eq_of_toNat_eq (by simp [zext32])
  rw [← henv, ← hfreq, ← hvol, ofNat_mul_two_pow]
  rfl

end

/-- Settles O17: the envelope word is the product of two bytes times 256, and such a product is below 2^16. -/
theorem releaseBleed : Obligations.ReleaseBleed := by
  intro s T n w e
  have he : e.toNat = w.toNat * T.ticks.toNat * 2 ^ 8 := toNat_envelopeBits_noteParams s T n w
  have hle := byte_mul_le w T.ticks
  refine ⟨he, ?_, ?_, ?_, ?_, ?_⟩ <;> rw [BitVec.extractLsb'_toNat, Nat.shiftRight_eq_div_pow, he] <;> omega

end Sys2Proof.Machine
end

section
/-! The slot opcodes (41_track_step.md R58 to R63): each one's whole next state, and their common frame. -/

namespace Sys2Proof.Machine

/-- Settles O12, with the table entries that NoteROM and InstrROM read. -/
theorem noteEffect : Obligations.NoteEffect := by
  refine ⟨fun _ _ => decodeSlot_of_note, fun n w f s T hT _ => ?_⟩
  refine ⟨s.voiceOf T, s.noteROM n, s.voiceOf_spec T, s.noteROM_spec n, ?_⟩
  rw [← encodeTone_noteParams]
  exact State.onTrack_some hT _

/-- Settles O13: SILENT's note bytes, and its one write, the common advance. -/
theorem silentEffect : Obligations.SilentEffect :=
  ⟨fun _ => decodeSlot_of_silent, fun _ _ _ _ _ _ hT _ => State.onTrack_some hT _⟩

/-- Settles O14: EMPTY's note byte, and its one write, the common advance. -/
theorem emptyEffect : Obligations.EmptyEffect :=
  ⟨fun _ => decodeSlot_of_empty, fun _ _ _ _ hT _ => State.onTrack_some hT _⟩

/-- Settles O15: END's note byte, and its one write, where the rewind overrides the advance of the cursor. -/
theorem endEffect : Obligations.EndEffect :=
  ⟨fun _ => decodeSlot_of_end, fun _ _ _ _ hT _ => State.onTrack_some hT _⟩

/-- What a slot opcode has done where it answers a next state. -/
theorem exec_slotOpcode_next {i : Instr} {s s' : State} (hi : i.isSlotOpcode = true) (h : exec i s = .next s') :
    ∃ T, s.track? s.stepping = some T ∧
      s' = (s.emitTones (s.slotTones T i)).setTrack s.stepping (T.afterSlot i) := by
  obtain ⟨T, hT⟩ : ∃ T, s.track? s.stepping = some T := by
    cases i with
    | note | silent | endMark | empty =>
      obtain ⟨T, hT, -⟩ := State.onTrack_next h
      exact ⟨T, hT⟩
    | step | reset | load | emit => cases hi
  exact ⟨T, hT, Host.Outcome.next.inj (h.symm.trans (exec_slotOpcode hi hT))⟩

/-- Settles O16: one write of Track `stepping`, which keeps that Track's control fields and note table. -/
theorem slotOpcodeFrame : Obligations.SlotOpcodeFrame := by
  intro i s s' hi h
  obtain ⟨T, hT, rfl⟩ := exec_slotOpcode_next hi h
  exact ⟨fun u hu => State.track?_setTrack_ne _ _ hu, rfl, rfl, rfl, rfl, List.length_set, T, T.afterSlot i, hT,
    State.track?_setTrack_self _ _ (State.lt_of_track? hT), T.sameControl_afterSlot i⟩

end Sys2Proof.Machine
end

section
/-! One STEP (41_track_step.md R56): the slot it reads, the Track it leaves and the tone it emits. -/

namespace Sys2Proof.Machine

/-- Settles O19: an ADVANCING STEP runs the opcode of the slot it reads. -/
theorem stepRunsSlot : Obligations.StepRunsSlot := by
  intro s t T hT hw
  exact (execStep_advancing hT (Track.waiting_of_zero hw)).trans (runSlot_eq_exec _ _)

/-- Settles O30: the command taken is a STEP, and an ADVANCING one. -/
theorem stepRunsFetchedSlot : Obligations.StepRunsFetchedSlot := by
  intro s t T p rest hc hp hT hw
  rw [step_of_commands_cons hc, hp]
  exact stepRunsSlot _ t T hT hw

/-- Where a slot sends the cursor, and what it loads into the countdown (R58, R62). -/
theorem Track.afterSlot_decodeSlot (T : Track) (x : Slot) :
    T.afterSlot (decodeSlot x) =
      { T with next := if x.note = 0xFE then 0 else Fin.ofNat 32 (T.next.val + 1), wait := x.wait } := by
  rcases slotClass_cases x.note with ⟨hn, hc⟩ | ⟨hE, hc⟩ | ⟨hF, hc⟩ | ⟨-, hE, -, hc⟩ <;> rw [decodeSlot, hc]
  · have hE : x.note ≠ 0xFE#8 := fun h => absurd hn (by rw [h]; decide)
    simp [hE]; rfl
  · rw [hE]; rfl
  · rw [hF]; rfl
  · simp [hE]; rfl

/-- A slot emits the tone of its note byte where that is below 37, and none otherwise (R60 to R63). -/
theorem State.slotTones_decodeSlot (s : State) (T : Track) (x : Slot) :
    s.slotTones T (decodeSlot x) =
      if h : x.note.toNat < 37 then [encodeTone (s.noteParams T ⟨x.note.toNat, h⟩ x.wait)] else [] := by
  split
  next h => rw [decodeSlot_of_note (n := ⟨x.note.toNat, h⟩) rfl]; rfl
  next h =>
    rcases slotClass_cases x.note with ⟨hn, -⟩ | ⟨-, hc⟩ | ⟨-, hc⟩ | ⟨-, -, -, hc⟩
    · exact absurd hn h
    all_goals rw [decodeSlot, hc]; rfl

/-- The number of a slot's tones. -/
theorem State.length_slotTones_decodeSlot (s : State) (T : Track) (x : Slot) :
    (s.slotTones T (decodeSlot x)).length = if x.note.toNat < 37 then 1 else 0 := by
  rw [State.slotTones_decodeSlot]
  split <;> rfl

section
variable {T : Track} (hw : T.waiting = true) (t : Nat)
include hw

theorem Track.after_step_waiting : T.after (.step t) = T.countdown := if_pos hw

theorem State.tones_step_waiting (s : State) : s.tones T (.step t) = [] := if_pos hw

end

section
variable {T : Track} (hw : T.waiting = false) (t : Nat)
include hw

theorem Track.after_step_advancing : T.after (.step t) = T.afterSlot (decodeSlot (slotRead T T.next)) := by
  rw [Track.after, hw, if_neg Bool.false_ne_true]

theorem State.tones_step_advancing (s : State) :
    s.tones T (.step t) = s.slotTones T (decodeSlot (slotRead T T.next)) := by
  rw [State.tones, hw, if_neg Bool.false_ne_true]

end

/-- The Track after `j` WAITING steps. -/
def Track.countdownBy (T : Track) (j : Nat) : Track := { T with wait := BitVec.ofNat 8 (T.wait.toNat - j) }

theorem Track.toNat_countdownBy_wait (T : Track) (j : Nat) : (T.countdownBy j).wait.toNat = T.wait.toNat - j := by
  have := T.wait.isLt
  exact Nat.mod_eq_of_lt (by omega)

@[simp] theorem Track.countdownBy_zero (T : Track) : T.countdownBy 0 = T := by
  simp [Track.countdownBy]

theorem Track.waiting_countdownBy {T : Track} {j : Nat} (h : j < T.wait.toNat) : (T.countdownBy j).waiting = true := by
  rw [Track.waiting_iff, Track.toNat_countdownBy_wait]
  omega

/-- One WAITING step more (R57). -/
theorem Track.countdown_countdownBy {T : Track} {j : Nat} (h : j < T.wait.toNat) :
    (T.countdownBy j).countdown = T.countdownBy (j + 1) := by
  have hwait : (T.countdownBy j).wait - 1 = (T.countdownBy (j + 1)).wait := by
    have hj := T.toNat_countdownBy_wait j
    have hj' := T.toNat_countdownBy_wait (j + 1)
    bv_omega
  rw [Track.countdown, hwait]
  rfl

/-- NoteROM as an entry of the 37-entry table. -/
theorem State.noteROM_eq_getD (s : State) (n : Fin 37) :
    s.noteROM n = (130#32 :: s.notesFrom1.toList).getD n.val 0 := by
  rw [List.getD_eq_getElem?_getD, State.noteROM_spec, Option.getD_some]

/-- Settles O18: what `Track.after` and `State.tones` are on each branch. -/
theorem stepEffect : Obligations.StepEffect := by
  refine ⟨fun _ => decodeCommand_of_step, fun s t T hT => ⟨s.voiceOf T, s.voiceOf_spec T, ?_⟩⟩
  rw [exec_step_loaded hT]
  by_cases hw : 0 < T.wait.toNat
  · have hwaiting := T.waiting_iff.mpr hw
    have hcount := Track.countdown_countdownBy hw
    rw [Track.countdownBy_zero] at hcount
    rw [if_pos hw, State.tones_step_waiting hwaiting, Track.after_step_waiting hwaiting, hcount, State.emitTones_nil]
    rfl
  · have hadvancing : T.waiting = false := Bool.eq_false_iff.mpr fun h => hw (T.waiting_iff.mp h)
    rw [if_neg hw, State.tones_step_advancing hadvancing, Track.after_step_advancing hadvancing,
      Track.afterSlot_decodeSlot, State.slotTones_decodeSlot]
    simp only [encodeTone_noteParams, State.noteROM_eq_getD]
    rfl

end Sys2Proof.Machine
end

section
/-! Runs of STEPs of one Track (41_track_step.md R57, R62, R64). -/

namespace Sys2Proof.Machine

/-- The state after a STEP of Track `t`, which held `T`, with these commands still to come. -/
def State.afterStep (s : State) (t : Nat) (T : Track) (commands : List Packet) : State :=
  (({ s with commands := commands }.addressStep t).emitTones (s.tones T (.step t))).setTrack t (T.after (.step t))

section
variable {s : State} {t : Nat} {T : Track} {p : Packet} {rest : List Packet} (hT : s.track? t = some T)
include hT

theorem State.track?_afterStep (commands : List Packet) :
    (s.afterStep t T commands).track? t = some (T.after (.step t)) :=
  State.track?_setTrack_self _ _ (State.lt_of_track? hT)

/-- The first of several STEPs. -/
theorem steps_succ_of_step {k : Nat} (hp : decodeCommand p = .step t)
    (hc : s.commands = List.replicate (k + 1) p ++ rest) :
    steps (k + 1) s = steps k (s.afterStep t T (List.replicate k p ++ rest)) := by
  refine steps_succ hc ?_
  rw [hp]
  exact exec_step_loaded hT

end

/-- Consecutive STEPs of Track `t` that emit nothing and take it through `F 0`, `F 1`, …: only that Track changes. -/
theorem steps_silent {t : Nat} {p : Packet} {rest : List Packet} (hp : decodeCommand p = .step t) (k : Nat) :
    ∀ {F : Nat → Track} {s : State}, s.track? t = some (F 0) → s.commands = List.replicate k p ++ rest →
      (∀ j < k, (F j).after (.step t) = F (j + 1)) → (∀ j < k, ∀ r : State, r.tones (F j) (.step t) = []) →
        steps k s = .next { s with
          commands := rest
          stepping := if k = 0 then s.stepping else t
          tracks := s.tracks.set t (some (F k)) } := by
  induction k with
  | zero =>
    intro F s hT hc _ _
    rw [State.set_track_self hT, ← (show s.commands = rest from hc)]
    rfl
  | succ k ih =>
    intro F s hT hc hafter htones
    have hT' := State.track?_afterStep hT (List.replicate k p ++ rest)
    rw [hafter 0 k.succ_pos] at hT'
    rw [steps_succ_of_step hT hp hc, ih (F := fun j => F (j + 1)) hT' rfl
      (fun j hj => hafter (j + 1) (Nat.succ_lt_succ hj)) fun j hj => htones (j + 1) (Nat.succ_lt_succ hj)]
    simp [State.afterStep, htones 0 k.succ_pos]

/-- Settles O20: while the countdown lasts, each STEP is a WAITING one. -/
theorem waitCountdown : Obligations.WaitCountdown := by
  intro s t k T p rest hT hk hp hc
  refine steps_silent (F := T.countdownBy) hp k (by rwa [Track.countdownBy_zero]) hc (fun j hj => ?_) fun j hj r => ?_
  · have hlt : j < T.wait.toNat := by omega
    rw [Track.after_step_waiting (Track.waiting_countdownBy hlt), Track.countdown_countdownBy hlt]
  · exact State.tones_step_waiting (Track.waiting_countdownBy (by omega)) t r

/-- Settles O21: the first STEP runs the slot, and the others count down the wait byte it has loaded. -/
theorem slotHold : Obligations.SlotHold := by
  intro s t j T p rest hT hw hj hp hc
  have hadvancing := Track.waiting_of_zero hw
  have hT' := State.track?_afterStep hT (List.replicate j p ++ rest)
  rw [Track.after_step_advancing hadvancing, Track.afterSlot_decodeSlot] at hT'
  refine ⟨_, _, (steps_succ_of_step hT hp hc).trans (waitCountdown _ t j _ p rest hT' hj hp rfl), rfl, rfl, ?_, ?_⟩
  · rw [State.tones_step_advancing hadvancing, State.length_slotTones_decodeSlot]
  · exact State.track?_setTrack_self (s.afterStep t T _) _ (State.lt_of_track? hT')

/-- Settles O22: the slot sends the cursor back to itself and loads the countdown with 0, so the Track is a fixed point. -/
theorem endLoop : Obligations.EndLoop := by
  intro s t k T f p rest hT hnext hw hslot hp hc
  have hadvancing := Track.waiting_of_zero hw
  have hread : decodeSlot (slotRead T T.next) = .endMark 0 f := by rw [hnext, hslot]; rfl
  have hafter : T.after (.step t) = T := by
    rw [Track.after_step_advancing hadvancing, hread]
    cases T
    cases hnext
    cases hw
    rfl
  have htones (r : State) : r.tones T (.step t) = [] := by
    rw [State.tones_step_advancing hadvancing, hread]
    rfl
  rw [steps_silent (F := fun _ => T) hp k hT hc (fun _ _ => hafter) fun _ _ => htones, State.set_track_self hT]

end Sys2Proof.Machine
end

section
/-! The ranges of the Tracks' tones (41_track_step.md R60, 70_reset_and_hazards.md R89, R90): every tone but EMIT's is a
NOTE's, and a NOTE's tone is in the ranges. -/

namespace Sys2Proof.Machine

/-- A tone that a NOTE of some Track emits on these constant tables. -/
def State.NoteTone (s : State) (x : Tone) : Prop :=
  ∃ (T : Track) (n : Fin 37) (w : Byte), x = encodeTone (s.noteParams T n w)

theorem State.NoteTone.fromTrack {s : State} {x : Tone} (h : s.NoteTone x) : x.fromTrack := by
  obtain ⟨T, n, w, rfl⟩ := h
  have henv := toNat_envelopeBits_noteParams s T n w
  have hle := byte_mul_le w T.ticks
  have hvol : (encodeTone (s.noteParams T n w)).volume.toNat = T.volume.toNat := toNat_zext32 _
  have hlt := T.volume.isLt
  exact ⟨by omega, by omega, by omega⟩

theorem State.NoteTone.inWidths {s : State} {x : Tone} (h : s.NoteTone x) (hnotes : s.wfNotes) (hinstr : s.wfInstr) :
    x.inWidths := by
  obtain ⟨T, n, w, rfl⟩ := h
  obtain ⟨hchannel, hmode⟩ := hinstr (instrumentIndex s.voices T.instrument)
  have hfreq : (encodeTone (s.noteParams T n w)).frequencyBits = s.noteROM n := by rw [encodeTone_noteParams]
  have hcm : (encodeTone (s.noteParams T n w)).channelModeBits.toNat =
      (s.voiceOf T).mode.toNat * 4 + (s.voiceOf T).channel.toNat := toNat_channelModeBits hchannel hmode
  have hvoice : s.voiceOf T = instrROM s.voices (instrumentIndex s.voices T.instrument) := rfl
  rw [hvoice] at hcm
  exact ⟨hfreq ▸ hnotes n, by omega⟩

theorem State.noteTone_of_mem_slotTones {s : State} {T : Track} {i : Instr} {x : Tone} (hx : x ∈ s.slotTones T i) :
    s.NoteTone x := by
  cases i with
  | note n w => exact ⟨T, n, w, List.mem_singleton.mp hx⟩
  | _ => cases hx

theorem State.noteTone_of_mem_tones {s : State} {T : Track} {i : Instr} {x : Tone} (hx : x ∈ s.tones T i) :
    s.NoteTone x := by
  cases i with
  | step =>
    rw [State.tones] at hx
    split at hx
    · cases hx
    · exact State.noteTone_of_mem_slotTones hx
  | note | silent | endMark | empty | reset | load | emit =>
    simp only [State.tones] at hx
    exact State.noteTone_of_mem_slotTones hx

/-- Every instruction but EMIT appends tones of NOTEs alone (R81). -/
theorem exec_trace_noteTone {i : Instr} {s s' : State} (hi : ∀ q, i ≠ .emit q) (h : exec i s = .next s') :
    ∃ l, s'.trace = s.trace ++ l ∧ ∀ x ∈ l, s.NoteTone x := by
  have of_loaded {t : Nat} {T : Track} (ht : s.target i = some t) (hT : s.track? t = some T) :
      ∃ l, s'.trace = s.trace ++ l ∧ ∀ x ∈ l, s.NoteTone x := by
    obtain ⟨k, rfl⟩ := exec_loaded_next ht hT h
    exact ⟨_, rfl, fun _ => State.noteTone_of_mem_tones⟩
  cases i with
  | note | silent | endMark | empty | step | reset =>
    obtain ⟨T, hT, -⟩ := State.onTrack_next h
    exact of_loaded rfl hT
  | load =>
    obtain ⟨-, rfl⟩ := exec_load_next h
    exact ⟨[], (List.append_nil _).symm, nofun⟩
  | emit q => exact absurd rfl (hi q)

/-- Only the code 0b11 decodes to an EMIT (30_encoding.md R44). -/
theorem decodeCommand_ne_emit {p : Packet} (h : p.cmd ≠ 0b11) (q : ToneOperand) : decodeCommand p ≠ .emit q := by
  have codes : ∀ c : BitVec 2, c = 0b00 ∨ c = 0b01 ∨ c = 0b10 ∨ c = 0b11 := by decide
  rcases codes p.cmd with hc | hc | hc | hc
  · rw [decodeCommand_of_step hc]; nofun
  · rw [decodeCommand_of_reset hc]; nofun
  · rw [decodeCommand_of_load hc]; nofun
  · exact absurd hc h

theorem State.wfNotes_congr {s s' : State} (hn : s'.notesFrom1 = s.notesFrom1) : s'.wfNotes ↔ s.wfNotes := by
  simp only [State.wfNotes, State.noteROM_congr hn]

theorem State.wfInstr_congr {s s' : State} (hv : s'.voices = s.voices) : s'.wfInstr ↔ s.wfInstr := by
  rw [State.wfInstr, State.wfInstr, hv]

theorem State.tracksOnly_cons {s : State} {p : Packet} {rest : List Packet} (hc : s.commands = p :: rest) :
    s.tracksOnly ↔ p.cmd ≠ 0b11 ∧ ∀ q ∈ rest, q.cmd ≠ 0b11 := by
  rw [State.tracksOnly, hc, List.forall_mem_cons]

/-- A command that is not an EMIT keeps the invariant: its tones are tones of NOTEs, and the tables stay. -/
theorem exec_keeps_inv {i : Instr} {s s' : State} (hi : ∀ q, i ≠ .emit q) (hinv : s.Inv) (h : exec i s = .next s') :
    s'.Inv := by
  obtain ⟨hwf, honly, hfrom, hwidths⟩ := hinv
  obtain ⟨l, htrace, hl⟩ := exec_trace_noteTone hi h
  have hf := exec_frameOff h
  refine ⟨?_, ?_, ?_, fun hnotes hinstr => ?_⟩
  · rwa [State.wf, hf.length]
  · rwa [State.tracksOnly, hf.commands]
  · rw [htrace, List.forall_mem_append]
    exact ⟨hfrom, fun x hx => (hl x hx).fromTrack⟩
  · rw [State.wfNotes_congr hf.notesFrom1] at hnotes
    rw [State.wfInstr_congr hf.voices] at hinstr
    rw [htrace, List.forall_mem_append]
    exact ⟨hwidths hnotes hinstr, fun x hx => (hl x hx).inWidths hnotes hinstr⟩

/-- Settles O42: an idle step changes nothing, and the command taken off a stream without EMIT is none. -/
theorem stepKeepsInv : Obligations.StepKeepsInv := by
  intro s s' hinv h
  rcases step_cases h with ⟨-, rfl⟩ | ⟨p, rest, hc, h⟩
  · exact hinv
  · obtain ⟨hwf, honly, htones⟩ := hinv
    obtain ⟨hp, hrest⟩ := (State.tracksOnly_cons hc).mp honly
    have hinv' : State.Inv { s with commands := rest } := ⟨hwf, hrest, htones⟩
    exact exec_keeps_inv (decodeCommand_ne_emit hp) hinv' h

end Sys2Proof.Machine
end

section
/-! RESET and LOAD (42_track_control.md R65, R67), and the machine without a command (R68, 60_exceptions.md R80). -/

namespace Sys2Proof.Machine

theorem exec_reset_loaded {s : State} {t : Nat} {T : Track} (hT : s.track? t = some T) :
    exec (.reset t) s = .next (s.setTrack t T.rewound) :=
  State.onTrack_some hT _

theorem exec_load_of_lt {s : State} {t : Nat} (ht : t < s.tracks.length) (tb : TableOperand) (tk n v : Byte)
    (f : Byte × Byte) : exec (.load t tb tk n v f) s = .next (s.setTrack t (loadedTrack tb tk n v f)) :=
  if_pos ((s.hasTrack_iff t).mpr ht)

@[simp] theorem Track.rewound_rewound (T : Track) : T.rewound.rewound = T.rewound := rfl

/-- Settles O23: the second RESET finds the rewound Track, which rewinding keeps. -/
theorem resetEffect : Obligations.ResetEffect := by
  refine ⟨fun _ => decodeCommand_of_reset, fun s t T hT => ⟨exec_reset_loaded hT, fun s' h => ?_⟩⟩
  obtain rfl := Host.Outcome.next.inj ((exec_reset_loaded hT).symm.trans h)
  have hT' := s.track?_setTrack_self T.rewound (State.lt_of_track? hT)
  rw [exec_reset_loaded hT', State.setTrack_setTrack, Track.rewound_rewound]

/-- Settles O24: LOAD's code, and its one write, for each form of the table operand. -/
theorem loadEffect : Obligations.LoadEffect := by
  refine ⟨fun _ => decodeCommand_of_load, fun s t table tk n v f ht => ?_⟩
  rw [exec_load_of_lt ht]
  cases table with
  | given | defaultTable => rfl

/-- Settles O31: no command is taken off an empty stream. -/
theorem idleKeepsState : Obligations.IdleKeepsState :=
  fun _ => step_of_commands_nil

end Sys2Proof.Machine
end

section
/-! A Track with the default table (42_track_control.md R66): every STEP reads EMPTY with wait byte 0. -/

namespace Sys2Proof.Machine

/-- The Track that a LOAD of the default table leaves, its cursor moved on by `j` slots. -/
def defaultTrack (ticks instrument volume : Byte) (flags : Byte × Byte) (j : Nat) : Track :=
  { loadedTrack .defaultTable ticks instrument volume flags with next := Fin.ofNat 32 j }

section
variable (tk n v : Byte) (f : Byte × Byte) (j : Nat)

theorem defaultTrack_zero : defaultTrack tk n v f 0 = loadedTrack .defaultTable tk n v f := rfl

theorem waiting_defaultTrack : (defaultTrack tk n v f j).waiting = false := Track.waiting_of_zero rfl

theorem slotRead_defaultTrack (i : Fin 32) : slotRead (defaultTrack tk n v f j) i = ⟨opcodeEmpty, 0, 0⟩ := by
  simp [slotRead, defaultTrack, loadedTrack, tableOf, defaultTable, Vector.get]

/-- The common advance (R58) with wait byte 0. -/
theorem advance_defaultTrack : (defaultTrack tk n v f j).advance 0 = defaultTrack tk n v f (j + 1) := by
  have hnext : Fin.ofNat 32 j + 1 = Fin.ofNat 32 (j + 1) := Fin.ofNat_add j 1
  rw [defaultTrack, defaultTrack, ← hnext]
  rfl

/-- A STEP moves the cursor on and leaves the countdown at 0. -/
theorem after_step_defaultTrack (t : Nat) :
    (defaultTrack tk n v f j).after (.step t) = defaultTrack tk n v f (j + 1) := by
  rw [Track.after_step_advancing (waiting_defaultTrack tk n v f j), slotRead_defaultTrack, decodeSlot_of_empty rfl]
  exact advance_defaultTrack tk n v f j

theorem tones_step_defaultTrack (t : Nat) (s : State) : s.tones (defaultTrack tk n v f j) (.step t) = [] := by
  rw [State.tones_step_advancing (waiting_defaultTrack tk n v f j), slotRead_defaultTrack, decodeSlot_of_empty rfl]
  rfl

end

/-- A LOAD as the first command of a run. -/
theorem steps_succ_of_load {s : State} {t k : Nat} {tb : TableOperand} {tk n v : Byte} {f : Byte × Byte} {l : Packet}
    {rest : List Packet} (ht : t < s.tracks.length) (hl : decodeCommand l = .load t tb tk n v f)
    (hc : s.commands = l :: rest) :
    steps (k + 1) s = steps k ({ s with commands := rest }.setTrack t (loadedTrack tb tk n v f)) := by
  refine steps_succ hc ?_
  rw [hl]
  exact exec_load_of_lt (s := { s with commands := rest }) ht tb tk n v f

/-- Settles O26: after the LOAD, the STEPs take the Track silently through the cursor's positions. -/
theorem defaultTableSilent : Obligations.DefaultTableSilent := by
  intro s t k tk n v f l p rest ht hl hp hc
  have hT := State.track?_setTrack_self { s with commands := List.replicate k p ++ rest } (defaultTrack tk n v f 0) ht
  rw [steps_succ_of_load (rest := List.replicate k p ++ rest) ht hl hc, ← defaultTrack_zero,
    steps_silent (F := defaultTrack tk n v f) hp k hT rfl (fun j _ => after_step_defaultTrack tk n v f j t)
      fun j _ => tones_step_defaultTrack tk n v f j t,
    State.setTrack_tracks, List.set_set]
  rfl

end Sys2Proof.Machine
end

section
/-! Which instructions answer a next state, and by what name the others are refused (60_exceptions.md R69, R73, R74, R78). -/

namespace Sys2Proof.Machine

theorem exec_load_of_le {s : State} {t : Nat} (ht : s.tracks.length ≤ t) (tb : TableOperand) (tk n v : Byte)
    (f : Byte × Byte) : exec (.load t tb tk n v f) s = .refused .noSuchTrack :=
  if_neg fun h => Nat.not_lt.mpr ht ((s.hasTrack_iff t).mp h)

/-- Settles O25: the number is not below `N_TRACKS`, so no instance has it. -/
theorem loadNoSuchTrack : Obligations.LoadNoSuchTrack :=
  fun _ _ tb tk n v f ht => exec_load_of_le ht tb tk n v f

/-- Settles O27: STEP and RESET run on their Track, which is not loaded; EMIT asks for no Track. -/
theorem unloadedRefused : Obligations.UnloadedRefused :=
  ⟨fun _ _ hT => ⟨State.onTrack_none hT _, State.onTrack_none hT _⟩, fun _ _ => ⟨_, rfl⟩⟩

/-- The name of an instruction's refusal, where it is refused. -/
def refusalOf : Instr → Refusal
  | .load _ _ _ _ _ _ => .noSuchTrack
  | _ => .unloadedTrack

theorem exec_next_of_canRun {i : Instr} {s : State} (h : s.canRun i = true) : ∃ s', exec i s = .next s' := by
  have of_loaded {t : Nat} {T : Track} (ht : s.target i = some t) (hT : s.track? t = some T) :
      ∃ s', exec i s = .next s' := by
    obtain ⟨s', hs', -⟩ := exec_loaded_track ht hT
    exact ⟨s', hs'⟩
  cases i with
  | note | silent | endMark | empty | step | reset =>
    obtain ⟨T, hT⟩ := Option.isSome_iff_exists.mp h
    exact of_loaded rfl hT
  | load t tb tk n v f => exact ⟨_, exec_load_of_lt (of_decide_eq_true h) tb tk n v f⟩
  | emit => exact ⟨_, rfl⟩

theorem exec_refused_of_not_canRun {i : Instr} {s : State} (h : s.canRun i = false) :
    exec i s = .refused (refusalOf i) := by
  cases i with
  | note | silent | endMark | empty | step | reset =>
    have hT := Option.isNone_iff_eq_none.mp (Option.isSome_eq_false_iff.mp h)
    exact State.onTrack_none hT _
  | load t tb tk n v f => exact exec_load_of_le (Nat.le_of_not_lt (of_decide_eq_false h)) tb tk n v f
  | emit => cases h

/-- An instruction answers a next state exactly where it can run. -/
theorem exec_next_iff_canRun (i : Instr) (s : State) : (∃ s', exec i s = .next s') ↔ s.canRun i = true := by
  refine ⟨fun ⟨s', hs'⟩ => ?_, exec_next_of_canRun⟩
  cases hrun : s.canRun i with
  | true => rfl
  | false => cases hs'.symm.trans (exec_refused_of_not_canRun hrun)

/-- Settles O28: what cannot run is refused, a LOAD as noSuchTrack and every other instruction as unloadedTrack. -/
theorem execTotal : Obligations.ExecTotal := by
  refine fun i s => ⟨exec_next_iff_canRun i s, fun hno => ?_⟩
  have hrefused := exec_refused_of_not_canRun hno
  cases i with
  | load => exact .inl ⟨_, _, _, _, _, _, rfl, hrefused⟩
  | note | silent | endMark | empty | step | reset | emit => exact .inr ⟨nofun, hrefused⟩

end Sys2Proof.Machine
end

section
/-! The output trace over one instruction (60_exceptions.md R81). -/

namespace Sys2Proof.Machine

theorem State.length_slotTones_le_one (s : State) (T : Track) (i : Instr) : (s.slotTones T i).length ≤ 1 := by
  cases i with
  | note => exact Nat.le_refl 1
  | _ => exact Nat.zero_le 1

/-- A STEP emits the tones of at most one slot (41_track_step.md R56). -/
theorem State.length_tones_step_le_one (s : State) (T : Track) (t : Nat) : (s.tones T (.step t)).length ≤ 1 := by
  rw [State.tones]
  split
  · exact Nat.zero_le 1
  · exact s.length_slotTones_le_one T _

/-- Settles O32: the Track that an instruction runs on gives the tones appended; EMIT appends its own one, LOAD none. -/
theorem traceGrows : Obligations.TraceGrows := by
  intro i s s' h
  cases i with
  | note =>
    obtain ⟨T, -, rfl⟩ := exec_note_next h
    exact ⟨[_], rfl, rfl⟩
  | emit =>
    obtain rfl := exec_emit_next h
    exact ⟨[_], rfl, rfl⟩
  | step t =>
    obtain ⟨T, hT, -⟩ := exec_step_next h
    obtain ⟨k, rfl⟩ := exec_loaded_next rfl hT h
    exact ⟨_, rfl, s.length_tones_step_le_one T t⟩
  | silent | endMark | empty | reset =>
    obtain ⟨T, hT, -⟩ := State.onTrack_next h
    obtain ⟨k, rfl⟩ := exec_loaded_next rfl hT h
    exact ⟨_, rfl, rfl⟩
  | load =>
    obtain ⟨-, rfl⟩ := exec_load_next h
    exact ⟨[], (List.append_nil _).symm, rfl⟩

end Sys2Proof.Machine
end

section
/-! Unloaded Tracks (60_exceptions.md R74, 70_reset_and_hazards.md R84, R85). -/

namespace Sys2Proof.Machine

/-- No number names a loaded Track at power-on (R85). -/
theorem State.track?_reset (t : Nat) : State.reset.track? t = none := by
  have hall : State.reset.tracks = List.replicate (Config.extraTracks + 1) none := rfl
  rw [State.track?, hall, List.getElem?_replicate]
  split <;> rfl

/-- Only a LOAD writes a Track that is not loaded. -/
theorem loaded_of_exec_next {i : Instr} {s s' : State} {t : Nat} (hi : ∀ tb tk n v f, i ≠ .load t tb tk n v f)
    (ht : s.target i = some t) (h : exec i s = .next s') : ∃ T, s.track? t = some T := by
  cases i with
  | note | silent | endMark | empty | step | reset =>
    obtain rfl := Option.some.inj ht
    obtain ⟨T, hT, -⟩ := State.onTrack_next h
    exact ⟨T, hT⟩
  | load u tb tk n v f =>
    obtain rfl : u = t := Option.some.inj ht
    exact absurd rfl (hi tb tk n v f)
  | emit => cases ht

/-- Settles O35: an unloaded Track is not the one the instruction writes, and the frame keeps every other Track. -/
theorem unloadedUntilLoad : Obligations.UnloadedUntilLoad := by
  refine ⟨State.track?_reset, fun i s s' t hi h hT => ?_⟩
  have hne : s.target i ≠ some t := fun ht => by
    obtain ⟨T, hT'⟩ := loaded_of_exec_next hi ht h
    cases hT.symm.trans hT'
  exact ((exec_frameOff h).track? t hne).trans hT

end Sys2Proof.Machine
end
